-- ==== Sys2Proof/Word.lean ====
section
/-! DEFINITION. The sizes of the engine, each a named constant so that a later audit of a literal changes one line
(spec/00_scope.md R5; the other constants of that rule are in Machine/Constants.lean), and the word types made of them
(R7, R8). All values are unsigned, and all arithmetic is `BitVec` arithmetic, which wraps. The sizes are `@[simp]`, so
`simp` shows the number. -/

namespace Sys2Proof

/-- NWORDS: words in R and in SNAP. -/
@[simp] abbrev nWords : Nat := 32
/-- WORD_BITS: width of a register word, of a ROM entry and of a network word. -/
@[simp] abbrev wordBits : Nat := 32
/-- OFF_BITS: significant bits of the offset. -/
@[simp] abbrev offBits : Nat := 5
/-- CTR_BITS: width of the counter. -/
@[simp] abbrev ctrBits : Nat := 64
/-- KEY_BYTES: length of key material. -/
@[simp] abbrev keyBytes : Nat := 16
/-- IV_BYTES: length of IV material. -/
@[simp] abbrev ivBytes : Nat := 16
/-- ROM_ENTRIES: entries per substitution table. -/
@[simp] abbrev romEntries : Nat := 256
/-- ROM_TABLES: number of substitution tables. -/
@[simp] abbrev romTables : Nat := 2
/-- BLOCK_BYTES: keystream bytes emitted per round. -/
@[simp] abbrev blockBytes : Nat := 8

/-- A byte: an unsigned 8-bit value (00_scope.md R7). -/
abbrev Byte := BitVec 8

/-- A word of WORD_BITS bits. -/
abbrev Word := BitVec wordBits

/-- One substitution table of ROM_ENTRIES words. -/
abbrev RomTable := Vector Word romEntries

/-- Key material whose length has been checked: exactly KEY_BYTES bytes. -/
abbrev KeyMaterial := Vector Byte keyBytes

/-- IV material whose length has been checked: exactly IV_BYTES bytes. -/
abbrev IvMaterial := Vector Byte ivBytes

end Sys2Proof
end

