-- ==== Sys2Proof/Syntax.lean ====
section
/-! DEFINITION. The five host commands, one constructor per row of spec/opcode_table.json (30_encoding.md R74). -/

namespace Sys2Proof

/-- A command as the decoder hands it to the engine. LEN of the format L commands is the length of the payload
(30_encoding.md R72). -/
inductive Instr where
  /-- CLR: end the session and clear the engine (45_session_control.md R165). -/
  | clr
  /-- LDKEY: load key material (41_key_scheduler.md R100). -/
  | ldkey (payload : List Byte)
  /-- LDIV: load IV material and mix (42_iv_scheduler.md R110). -/
  | ldiv (payload : List Byte)
  /-- ROUND: run one round and answer the block (44_round_and_stream.md R150). -/
  | round
  /-- XORB: XOR one data byte with the next keystream byte (44_round_and_stream.md R152, R153). -/
  | xorb (data : Byte)
deriving DecidableEq, Repr

end Sys2Proof
end

