-- ==== Sys2Proof/WellFormed.lean ====
section
/-! DEFINITION. Which commands a packet can carry. -/

namespace Sys2Proof

/-- LEN is one byte: material longer than 255 bytes cannot be presented (30_encoding.md R72, R73). -/
def payloadFits (payload : List Byte) : Bool := payload.length ≤ 255

/-- A command that some packet carries. -/
def Instr.wellFormed : Instr → Bool
  | .clr => true
  | .ldkey payload => payloadFits payload
  | .ldiv payload => payloadFits payload
  | .round => true
  | .xorb _ => true

end Sys2Proof
end

