-- ==== Sys2Proof/Decode.lean ====
section
/-! DEFINITION. The packet decoder, total on any byte stream (30_encoding.md R80, R81), and the encoder (R70 to R74).
A header is two bytes, OP sent first and then ARG; H = OP || ARG (R70). -/

namespace Sys2Proof

/-- OP of CLR (30_encoding.md R74). -/
def opClr : Byte := 0x01
/-- OP of LDKEY (30_encoding.md R74). -/
def opLdkey : Byte := 0x02
/-- OP of LDIV (30_encoding.md R74). -/
def opLdiv : Byte := 0x03
/-- OP of ROUND (30_encoding.md R74). -/
def opRound : Byte := 0x04
/-- OP of XORB (30_encoding.md R74). -/
def opXorb : Byte := 0x05

/-- Why a header is illegal (30_encoding.md R81). -/
inductive IllegalHeader where
  /-- OP is not one of 0x01 .. 0x05. -/
  | unknownOpcode (op arg : Byte)
  /-- The header of a format N command whose ARG is not 0x00. -/
  | nonzeroArgument (op arg : Byte)
deriving DecidableEq, Repr

/-- A complete command packet: a command, or an illegal header, which is a packet of two bytes (30_encoding.md R80). -/
inductive Packet where
  | command (i : Instr)
  | illegal (why : IllegalHeader)
deriving DecidableEq, Repr

/-- What a stream that is not yet a packet still lacks (30_encoding.md R80). -/
inductive Missing where
  | header
  | payload
deriving DecidableEq, Repr

/-- What the decoder makes of a byte stream: its first packet and the bytes after it, or no packet yet. -/
inductive Decoded where
  | packet (p : Packet) (rest : List Byte)
  | incomplete (what : Missing)
deriving DecidableEq, Repr

/-- Step 2 of R80: take ARG further bytes as the payload, if the host has sent them all. -/
def takePayload (command : List Byte → Instr) (arg : Byte) (rest : List Byte) : Decoded :=
  if arg.toNat ≤ rest.length then
    .packet (.command (command (rest.take arg.toNat))) (rest.drop arg.toNat)
  else .incomplete .payload

/-- A format N header: ARG must be 0x00 (30_encoding.md R71, R80). -/
def takeNoOperand (command : Instr) (op arg : Byte) (rest : List Byte) : Decoded :=
  if arg = 0x00 then .packet (.command command) rest
  else .packet (.illegal (.nonzeroArgument op arg)) rest

/-- The decoder (30_encoding.md R80). -/
def decode : List Byte → Decoded
  | op :: arg :: rest =>
    if op = opLdkey then takePayload .ldkey arg rest
    else if op = opLdiv then takePayload .ldiv arg rest
    else if op = opClr then takeNoOperand .clr op arg rest
    else if op = opRound then takeNoOperand .round op arg rest
    else if op = opXorb then .packet (.command (.xorb arg)) rest
    else .packet (.illegal (.unknownOpcode op arg)) rest
  | _ => .incomplete .header

/-- The packet of a command (30_encoding.md R71, R74). Meaningful for a well-formed command: LEN is one byte. -/
def encode : Instr → List Byte
  | .clr => [opClr, 0x00]
  | .ldkey payload => opLdkey :: BitVec.ofNat 8 payload.length :: payload
  | .ldiv payload => opLdiv :: BitVec.ofNat 8 payload.length :: payload
  | .round => [opRound, 0x00]
  | .xorb data => [opXorb, data]

/-- The two bytes of an illegal header. -/
def IllegalHeader.bytes : IllegalHeader → List Byte
  | .unknownOpcode op arg => [op, arg]
  | .nonzeroArgument op arg => [op, arg]

/-- An illegal header that R81 lists. -/
def IllegalHeader.wellFormed : IllegalHeader → Bool
  | .unknownOpcode op _ => op ∉ [opClr, opLdkey, opLdiv, opRound, opXorb]
  | .nonzeroArgument op arg => (op = opClr ∨ op = opRound) ∧ arg ≠ 0x00

/-- The bytes of a packet. -/
def encodePacket : Packet → List Byte
  | .command i => encode i
  | .illegal why => why.bytes

/-- A packet the host can send. -/
def Packet.wellFormed : Packet → Bool
  | .command i => i.wellFormed
  | .illegal why => why.wellFormed

/-! The opcode map as the spec prints it (30_encoding.md R74): a second reading of the encoding, which the decoder is
stated to agree with. -/

/-- The three packet formats (30_encoding.md R71). -/
inductive Format where
  | n
  | l
  | d
deriving DecidableEq, Repr

/-- One row of the opcode map. A header selects it when `H and mask = pattern`. -/
structure OpcodeRow where
  op : Byte
  format : Format
  pattern : BitVec 16
  mask : BitVec 16
deriving DecidableEq, Repr

/-- The complete command set: CLR, LDKEY, LDIV, ROUND, XORB (30_encoding.md R74). -/
def opcodeMap : List OpcodeRow :=
  [⟨0x01, .n, 0x0100, 0xFFFF⟩, ⟨0x02, .l, 0x0200, 0xFF00⟩, ⟨0x03, .l, 0x0300, 0xFF00⟩,
   ⟨0x04, .n, 0x0400, 0xFFFF⟩, ⟨0x05, .d, 0x0500, 0xFF00⟩]

def OpcodeRow.selects (r : OpcodeRow) (h : BitVec 16) : Bool := h &&& r.mask == r.pattern

/-- H = OP || ARG (30_encoding.md R70). -/
def headerOf (op arg : Byte) : BitVec 16 := op ++ arg

/-- The row of the opcode map that a command belongs to. -/
def Instr.row : Instr → OpcodeRow
  | .clr => ⟨0x01, .n, 0x0100, 0xFFFF⟩
  | .ldkey _ => ⟨0x02, .l, 0x0200, 0xFF00⟩
  | .ldiv _ => ⟨0x03, .l, 0x0300, 0xFF00⟩
  | .round => ⟨0x04, .n, 0x0400, 0xFFFF⟩
  | .xorb _ => ⟨0x05, .d, 0x0500, 0xFF00⟩

/-- The payload of a command: the bytes after its header. -/
def Instr.payload : Instr → List Byte
  | .clr => []
  | .ldkey payload => payload
  | .ldiv payload => payload
  | .round => []
  | .xorb _ => []

/-! The opcode table's numbering of an instruction's bits. -/

/-- The payload length of a packet whose header is OP, ARG (30_encoding.md R71). -/
def payloadLength (op arg : Byte) : Nat :=
  if op = opLdkey ∨ op = opLdiv then arg.toNat else 0

/-- The packet whose bits are `w`, numbered as spec/opcode_table.json numbers them: bits 15..0 are the header H, whose
bits 15..8 are OP, sent first (30_encoding.md R70); payload byte P[k] is bits 8k+23..8k+16. Every bit from `nbits` on is
0, so a format L packet of 16 table bits carries LEN zero bytes. The placing of the payload bits is a DESIGN CHOICE
(notes/assumptions/8.md). -/
def tableWordBytes (nbits w : Nat) : List Byte :=
  let v := w % 2 ^ nbits
  let op := BitVec.ofNat 8 (v / 2 ^ 8)
  let arg := BitVec.ofNat 8 v
  op :: arg :: (List.range (payloadLength op arg)).map fun k => BitVec.ofNat 8 (v / 2 ^ (16 + 8 * k))

/-- The command that the decoder reads from the packet whose bits are `w`; none where it refuses. -/
def decodeTableWord (nbits w : Nat) : Option Instr :=
  match decode (tableWordBytes nbits w) with
  | .packet (.command i) _ => some i
  | _ => none

end Sys2Proof
end

