-- ==== Sys2Proof/Config.lean ====
section
/-! DEFINITION. The open parameters of spec/00_scope.md R6, fixed for the life of the hardware (10_state.md R32).
Their types, their admissible values, the spec's defaults, and the opaque constants the machine runs with.
The constants of R5 are in Machine/Constants.lean. -/

namespace Sys2Proof.Config

/-- Which of the two substitution tables a lookup reads: ROM1 (`first`) or ROM2 (`second`) (43_update_network.md R133). -/
inductive Table where
  | first
  | second
deriving DecidableEq, Repr

/-- The ROM_TABLES tables. -/
def Table.all : List Table := [.first, .second]

/-- The six virtual s-boxes (43_update_network.md R133). -/
inductive BoxName where
  | g1 | g2 | g3 | h1 | h2 | h3
deriving DecidableEq, Repr

/-- The table read at each of the four byte positions of one virtual s-box (R133, `sel(V, p)`). -/
structure BoxSel where
  byte0 : Table
  byte1 : Table
  byte2 : Table
  byte3 : Table
deriving DecidableEq, Repr

/-- At how many of its four positions a box reads table `t`. -/
def BoxSel.count (b : BoxSel) (t : Table) : Nat :=
  [b.byte0, b.byte1, b.byte2, b.byte3].count t

/-- SBOX_SEL: the selection of each of the six boxes (00_scope.md R6). -/
structure SboxSel where
  g1 : BoxSel
  g2 : BoxSel
  g3 : BoxSel
  h1 : BoxSel
  h2 : BoxSel
  h3 : BoxSel
deriving DecidableEq, Repr

def SboxSel.of (s : SboxSel) : BoxName → BoxSel
  | .g1 => s.g1
  | .g2 => s.g2
  | .g3 => s.g3
  | .h1 => s.h1
  | .h2 => s.h2
  | .h3 => s.h3

/-- Three boxes that each read table `t` at exactly one position, the three positions pairwise different. Boxes with
one odd position each differ exactly when their odd positions do. -/
def oddPositionsRotate (t : Table) (x y z : BoxSel) : Bool :=
  x.count t == 1 && y.count t == 1 && z.count t == 1 && x != y && x != z && y != z

/-- The values of SBOX_SEL a model accepts (43_update_network.md R140): each G reads the second table at one position,
each H reads the first table at one position, and the odd positions rotate. -/
def SboxSel.admissible (s : SboxSel) : Bool :=
  oddPositionsRotate .second s.g1 s.g2 s.g3 && oddPositionsRotate .first s.h1 s.h2 s.h3

/-- The spec's default SBOX_SEL (00_scope.md R6, 92_eei_decisions.md D13). -/
def SboxSel.default : SboxSel where
  g1 := ⟨.second, .first, .first, .first⟩
  g2 := ⟨.first, .second, .first, .first⟩
  g3 := ⟨.first, .first, .second, .first⟩
  h1 := ⟨.first, .second, .second, .second⟩
  h2 := ⟨.second, .first, .second, .second⟩
  h3 := ⟨.second, .second, .first, .second⟩

/-- How an IV byte goes into a register word: written, or XORed into what is there (42_iv_scheduler.md R112). -/
inductive LayoutMode where
  | write
  | xor
deriving DecidableEq, Repr

/-- One entry of IV_LAYOUT: mode, logical word index, IV byte index (00_scope.md R6). -/
structure LayoutEntry where
  mode : LayoutMode
  word : Fin nWords
  ivByte : Fin ivBytes
deriving DecidableEq, Repr

/-- The set of words of each mode (42_iv_scheduler.md R112, 90_conflicts.md C4). -/
def layoutWords : LayoutMode → List (Fin nWords)
  | .write => [8, 9, 10, 11, 24, 25, 26, 27]
  | .xor => [4, 5, 12, 13, 16, 17, 18, 19, 28, 29]

/-- The byte offsets the literal word load can read (42_iv_scheduler.md R112). -/
def layoutBytes : List (Fin ivBytes) := [0, 4, 8, 12]

/-- The values of IV_LAYOUT a model accepts (42_iv_scheduler.md R112): every entry's word is in the set of its mode and
its byte index is 0, 4, 8 or 12, and every word of both sets appears. -/
def ivLayoutAdmissible (l : List LayoutEntry) : Bool :=
  l.all (fun x => (layoutWords x.mode).contains x.word && layoutBytes.contains x.ivByte)
    && [LayoutMode.write, .xor].all fun m =>
      (layoutWords m).all fun w => l.any fun x => x.mode == m && x.word == w

/-- The default entry of word `w`: IV byte `4 * (w mod 4)` (42_iv_scheduler.md R113). -/
def defaultEntry (m : LayoutMode) (w : Fin nWords) : LayoutEntry :=
  ⟨m, w, Fin.ofNat ivBytes (4 * (w.val % 4))⟩

/-- The spec's default IV_LAYOUT: the WRITE entries, then the XOR entries, each in increasing word order (R113). -/
def defaultIvLayout : List LayoutEntry :=
  (layoutWords .write).map (defaultEntry .write) ++ (layoutWords .xor).map (defaultEntry .xor)

/-- WORD_LOAD. LITERAL is the only value the spec gives a meaning to (20_memory.md R59, 93_implementation_defined.md U4:
any other value is refused, so the type has no other). -/
inductive WordLoad where
  | literal
deriving DecidableEq, Repr

/-- CURSOR_MODE (00_scope.md R6, 44_round_and_stream.md R152 and R153). -/
inductive CursorMode where
  | sequential
  | firstByte
deriving DecidableEq, Repr

/-- The open parameters other than the ROM contents, with the proof that they are admissible (R112, R140). The default
of each field is the spec's default (00_scope.md R6). -/
structure Params where
  sboxSel : SboxSel := SboxSel.default
  ivLayout : List LayoutEntry := defaultIvLayout
  wordLoad : WordLoad := .literal
  cursorMode : CursorMode := .sequential
  sboxSel_admissible : sboxSel.admissible = true := by decide
  ivLayout_admissible : ivLayoutAdmissible ivLayout = true := by decide
deriving Inhabited

/-- Every parameter at the spec's default (00_scope.md R6); used by tests and by statements that name it. -/
def Params.default : Params where

/-- The parameters of this hardware. DESIGN CHOICE (notes/assumptions/4.md), safe: opaque, so that a claim proved of the
machine holds for every admissible value, the spec's defaults among them. -/
opaque params : Params

/-- S1, the contents of ROM1: an open parameter with no default (43_update_network.md R142, 93_implementation_defined.md
U1). A free value, notes/assumptions/5.md; safe: nothing can be proved of an entry. -/
opaque s1 : Byte → Word

/-- S2, the contents of ROM2: as `s1`. -/
opaque s2 : Byte → Word

end Sys2Proof.Config
end

