-- ==== Sys2Proof/Machine/State.lean ====
section
/-! DEFINITION. The state of one engine instance (spec/10_state.md section 1), the two ends of its host interface, the
reasons a step can stop, and the state after reset. -/

namespace Sys2Proof.Machine

/-- PHASE, the session phase: EMPTY = 0, KEYED = 1, PRIMED = 2 (10_state.md R31). The encoding 3 is never stored, so the
type has three names (93_implementation_defined.md U9). -/
inductive Phase where
  | empty
  | keyed
  | primed
deriving DecidableEq, Repr

/-- The status of a response (60_exceptions.md R170). -/
inductive Status where
  | ok
  | invalidKeySize
  | invalidIVSize
  /-- Reserved; no transition produces it (60_exceptions.md R174). -/
  | lengthMismatch
  | notKeyed
  | notPrimed
  | illegalCommand
deriving DecidableEq, Repr

/-- ROM1 and ROM2, the substitution tables (10_state.md R30). No command writes them. -/
structure Rom where
  rom1 : RomTable
  rom2 : RomTable
deriving DecidableEq, Repr

/-- The complete state of one engine instance: every row of the table in 10_state.md section 1 and nothing else. -/
structure Engine where
  /-- R[0..31], physical cells (R20). -/
  reg : Vector Word nWords
  /-- OFF, the rotation pointer (R22). -/
  off : BitVec offBits
  /-- CTR (R23). -/
  ctr : BitVec ctrBits
  /-- KEYSIZE (R24); read by nothing. -/
  keySize : BitVec 8
  /-- FRESH (R26). -/
  fresh : Bool
  /-- SNAP[0..31], physical cells (R27). -/
  snap : Vector Word nWords
  /-- KSBUF[0..7] (R28). -/
  ksBuf : Vector Byte blockBytes
  /-- KSPOS, values 0..8; BLOCK_BYTES = 8 means the block is exhausted (R29). -/
  ksPos : Fin (blockBytes + 1)
  /-- PHASE (R31). -/
  phase : Phase
  /-- ROM1, ROM2 (R30). -/
  rom : Rom
deriving DecidableEq, Repr

/-- The engine and the two byte channels of its host interface (30_encoding.md R70). The channels are the MODEL's own
fields, a DESIGN CHOICE (notes/assumptions/1.md), safe. -/
structure State where
  /-- The engine. -/
  engine : Engine
  /-- Bytes the host has sent and the engine has not consumed, first byte first. -/
  rx : List Byte
  /-- Response packets the engine has sent, oldest first. -/
  tx : List (List Byte)
deriving DecidableEq, Repr

/-- Why the machine stops with a fault: never (60_exceptions.md R188). Every error of this hardware is a response, after
which the engine goes on (R176), so the type has no constructor; safe (notes/assumptions/9.md). -/
inductive Fault where
deriving DecidableEq, Repr

/-- Why the model has no meaning for a command. -/
inductive Refusal where
  /-- Raised by `exec` alone, for a command whose meaning is not written yet; none is left. Safe: the model stops where
  the hardware goes on. -/
  | notModelled (mnemonic : String)
deriving DecidableEq, Repr

/-- A ROM table holding `f 0 .. f 255` (10_state.md R30: `ROM1[v] = S1(v)`). -/
def romTable (f : Byte → Word) : RomTable :=
  ⟨((List.range romEntries).map fun v => f (BitVec.ofNat 8 v)).toArray, by simp⟩

/-- The engine after reset (10_state.md R36, 70_reset_and_hazards.md R190). -/
def Engine.reset : Engine where
  reg := Vector.replicate nWords 0
  off := 0
  ctr := 0
  keySize := 0
  fresh := false
  snap := Vector.replicate nWords 0
  ksBuf := Vector.replicate blockBytes 0
  ksPos := Fin.last blockBytes
  phase := .empty
  rom := ⟨romTable Config.s1, romTable Config.s2⟩

/-- The machine after reset: the engine of R36, nothing received and nothing sent. -/
def State.reset : State where
  engine := Engine.reset
  rx := []
  tx := []

end Sys2Proof.Machine
end

