-- ==== Sys2Proof/Machine/Constants.lean ====
section
/-! DEFINITION. The constants of spec/00_scope.md R5, each named once so that a later audit of a literal changes one
line. The sizes NWORDS, WORD_BITS, OFF_BITS, CTR_BITS, KEY_BYTES, IV_BYTES, ROM_ENTRIES, ROM_TABLES and BLOCK_BYTES are
in Word.lean, because the types of the state need them. -/

namespace Sys2Proof.Machine

/-- E0: the carry word e at the start of mixing (42_iv_scheduler.md R114). -/
def e0 : Word := 0x00004472
/-- F0: the carry word f at the start of mixing (42_iv_scheduler.md R114). -/
def f0 : Word := 0x61676F6E
/-- N_STAGES: mixing stages per IV load. -/
def nStages : Nat := 16
/-- MIX_ROT: what a mixing stage adds to OFF. -/
def mixRot : BitVec offBits := 28
/-- MIX_TAPS: the logical words XORed into each of the probe words a, b, c, d, before the rotation. -/
def mixTapsA : Nat × Nat × Nat := (0, 24, 28)
def mixTapsB : Nat × Nat × Nat := (1, 25, 29)
def mixTapsC : Nat × Nat × Nat := (2, 26, 30)
def mixTapsD : Nat × Nat × Nat := (3, 27, 31)
/-- ROUND_ROT: what a round adds to OFF. -/
def roundRot : BitVec offBits := 2
/-- KEY_SIZE_BITS: the value of KEYSIZE after a key is loaded. -/
def keySizeBits : BitVec 8 := 128

/-- ROUND_TAPS: the logical words a round reads as a, b, c, d, e, f. -/
def roundTapA : Nat := 0
def roundTapB : Nat := 9
def roundTapC : Nat := 16
def roundTapD : Nat := 19
def roundTapE : Nat := 30
def roundTapF : Nat := 31

/-- MIX_FB: the logical words written by a stage and the words XORed into them, after the rotation. -/
def mixFeedback : List (Nat × Nat) := [(0, 20), (1, 21), (2, 22), (3, 23)]

/-- ROUND_FB: the logical words a round writes with b and with c, after the rotation. -/
def roundFeedbackB : Nat := 0
def roundFeedbackC : Nat := 1

end Sys2Proof.Machine
end

