-- ==== Sys2Proof/Machine/Flags.lean ====
section
/-! DEFINITION. The session flags FRESH, PHASE and KEYSIZE: what each command that writes them leaves
(spec/10_state.md R24, R26, R31). No arithmetic of this hardware sets a flag (00_scope.md R8). -/

namespace Sys2Proof.Machine

/-- CLR: KEYSIZE <- 0, FRESH <- 0, PHASE <- EMPTY (45_session_control.md R165). -/
def Engine.markEmpty (e : Engine) : Engine :=
  { e with keySize := 0, fresh := false, phase := .empty }

/-- LDKEY: FRESH <- 1, KEYSIZE <- 128, PHASE <- KEYED (41_key_scheduler.md R100). -/
def Engine.markKeyed (e : Engine) : Engine :=
  { e with keySize := keySizeBits, fresh := true, phase := .keyed }

/-- LDIV: FRESH <- 0, PHASE <- PRIMED (42_iv_scheduler.md R110). -/
def Engine.markPrimed (e : Engine) : Engine :=
  { e with fresh := false, phase := .primed }

end Sys2Proof.Machine
end

