-- ==== Sys2Proof/Machine/Operands.lean ====
section
/-! DEFINITION. Where bytes and wider values meet (spec/20_memory.md section 2), and the material of a payload. There is
no global byte order: each conversion has its own rule. -/

namespace Sys2Proof.Machine

/-- `byte_p(x) = x[8p+7 : 8p]` (00_scope.md R7, 20_memory.md R56). -/
def byteOf (p : Fin 4) (x : Word) : Byte := x.extractLsb' (8 * p.val) 8

/-- `hi(c) = c[63:32]` (00_scope.md R7, 20_memory.md R58). -/
def hiWord (c : BitVec ctrBits) : Word := c.extractLsb' wordBits wordBits

/-- `lo(c) = c[31:0]` (00_scope.md R7, 20_memory.md R58). -/
def loWord (c : BitVec ctrBits) : Word := c.extractLsb' 0 wordBits

/-- `e || f`: e the high 32 bits, f the low 32 bits (42_iv_scheduler.md R116). -/
def packCounter (e f : Word) : BitVec ctrBits := e ++ f

/-- The keystream block of a round: a, then e, each most significant byte first (20_memory.md R57, 44_round_and_stream.md
R147). -/
def blockOf (a e : Word) : Vector Byte blockBytes :=
  #v[byteOf 3 a, byteOf 2 a, byteOf 1 a, byteOf 0 a, byteOf 3 e, byteOf 2 e, byteOf 1 e, byteOf 0 e]

/-- The payload as material of `n` bytes: only when LEN is `n`, which is KEY_BYTES for a key and IV_BYTES for an IV
(30_encoding.md R72). -/
def materialOf (n : Nat) (payload : List Byte) : Option (Vector Byte n) :=
  if h : payload.length = n then some ⟨payload.toArray, by simpa using h⟩ else none

/-- WORD_LOAD(m, j). LITERAL: byte 4j as an unsigned word (20_memory.md R59). -/
def wordLoad (load : Config.WordLoad) {n : Nat} (m : Vector Byte n) (j : Fin 4) (h : 16 ≤ n := by decide) : Word :=
  match load with
  | .literal => (m[4 * j.val]).setWidth wordBits

/-- The j of `WORD_LOAD(P, j)` that reads material byte `b`; exact for the bytes 0, 4, 8, 12, the only ones an admissible
IV_LAYOUT names (42_iv_scheduler.md R112). -/
def wordIndexOfByte (b : Fin ivBytes) : Fin 4 := ⟨b.val / 4, Nat.div_lt_of_lt_mul b.isLt⟩

end Sys2Proof.Machine
end

