-- ==== Sys2Proof/Machine/Ops.lean ====
section
/-! DEFINITION. The named operations over the register file, the buffers and the host interface. -/

namespace Sys2Proof.Machine

/-! The circular register (spec/40_nlfsr_addressing.md). -/

/-- The physical cell of logical index `i`: `(OFF + i) mod 32` (40_nlfsr_addressing.md R90, 20_memory.md R51). -/
def physIndex (off : BitVec offBits) (i : Nat) : Fin nWords :=
  ⟨(off.toNat + i) % nWords, Nat.mod_lt _ (by decide)⟩

/-- WORD_AT, `x[i]` (40_nlfsr_addressing.md R90). -/
def Engine.wordAt (e : Engine) (i : Nat) : Word := e.reg[physIndex e.off i]

/-- SET_WORD_AT, `x[i] <- v` (40_nlfsr_addressing.md R91). -/
def Engine.setWordAt (e : Engine) (i : Nat) (v : Word) : Engine :=
  { e with reg := e.reg.set (physIndex e.off i) v }

/-- ROTATE by k: only OFF changes, no word of R moves (40_nlfsr_addressing.md R92). -/
def Engine.rotate (e : Engine) (k : BitVec offBits) : Engine := { e with off := e.off + k }

/-- The logical writes of a list, in list order. -/
def Engine.setWords (e : Engine) (writes : List (Nat × Word)) : Engine :=
  writes.foldl (fun e w => e.setWordAt w.1 w.2) e

/-- `for p in 0..31: R[p] <- 0`; `OFF <- 0` (41_key_scheduler.md R100, 45_session_control.md R165). -/
def Engine.clearRegister (e : Engine) : Engine :=
  { e with reg := Vector.replicate nWords 0, off := 0 }

/-- `for p in 0..31: SNAP[p] <- R[p]` (41_key_scheduler.md R102). -/
def Engine.takeSnapshot (e : Engine) : Engine := { e with snap := e.reg }

/-- RESTORE: `for p in 0..31: R[p] <- SNAP[p]`; `OFF <- 0` (42_iv_scheduler.md R111). -/
def Engine.restore (e : Engine) : Engine := { e with reg := e.snap, off := 0 }

/-- `for p in 0..31: SNAP[p] <- 0` (45_session_control.md R165). -/
def Engine.clearSnapshot (e : Engine) : Engine := { e with snap := Vector.replicate nWords 0 }

/-- `for k in 0..7: KSBUF[k] <- 0`; `KSPOS <- 8`: no keystream block is available (10_state.md R28, R29). -/
def Engine.dropBlock (e : Engine) : Engine :=
  { e with ksBuf := Vector.replicate blockBytes 0, ksPos := Fin.last blockBytes }

/-- CTR <- c (10_state.md R23). -/
def Engine.setCounter (e : Engine) (c : BitVec ctrBits) : Engine := { e with ctr := c }

/-- A fresh block: KSBUF <- block; KSPOS <- 0 (44_round_and_stream.md R146). -/
def Engine.loadBlock (e : Engine) (block : Vector Byte blockBytes) : Engine :=
  { e with ksBuf := block, ksPos := 0 }

/-! The response, and the one exception mechanism. -/

/-- The status codes (60_exceptions.md R170). -/
def Status.code : Status → Byte
  | .ok => 0x00
  | .invalidKeySize => 0x01
  | .invalidIVSize => 0x02
  | .lengthMismatch => 0x03
  | .notKeyed => 0x04
  | .notPrimed => 0x05
  | .illegalCommand => 0x06

/-- `respond(status, bytes)`: the response packet is the status byte, then the result bytes (30_encoding.md R75). -/
def State.respond (s : State) (status : Status) (bytes : List Byte) : State :=
  { s with tx := s.tx ++ [status.code :: bytes] }

/-- A command that ends well: the engine as the command left it, and status OK with the result bytes. -/
def State.finish (s : State) (e : Engine) (bytes : List Byte) : Host.Outcome State Fault Refusal :=
  .next ({ s with engine := e }.respond .ok bytes)

/-- `raise`: taking an exception. No state of the engine changes, the response is the single status byte, and the engine
is ready for the next command (00_scope.md R9, 60_exceptions.md R176). Nothing is saved, so there is no return (R179). -/
def State.raise (s : State) (status : Status) : Host.Outcome State Fault Refusal :=
  .next (s.respond status [])

end Sys2Proof.Machine
end

