-- ==== Sys2Proof/Machine/Network.lean ====
section
/-! DEFINITION. The six virtual s-boxes and the update network F (spec/43_update_network.md). Pure functions: of the state
they read only the ROM. -/

namespace Sys2Proof.Machine

/-- `T(1, v) = MemRead(ROM1, v, 32)`, `T(2, v) = MemRead(ROM2, v, 32)` (43_update_network.md R133). -/
def lookup (rom : Rom) (t : Config.Table) (v : Byte) : Word :=
  match t with
  | .first => rom.rom1[v.toNat]'v.isLt
  | .second => rom.rom2[v.toNat]'v.isLt

/-- The general form of a virtual s-box: one lookup per byte of x, the four results XORed (43_update_network.md R133). -/
def substitute (rom : Rom) (sel : Config.BoxSel) (x : Word) : Word :=
  lookup rom sel.byte0 (byteOf 0 x) ^^^ lookup rom sel.byte1 (byteOf 1 x) ^^^
    lookup rom sel.byte2 (byteOf 2 x) ^^^ lookup rom sel.byte3 (byteOf 3 x)

/-- The s-box V(x) under SBOX_SEL (43_update_network.md R133 to R139). -/
def sbox (p : Config.Params) (rom : Rom) (v : Config.BoxName) (x : Word) : Word :=
  substitute rom (p.sboxSel.of v) x

/-- The six network words (43_update_network.md R125). -/
structure Six where
  a : Word
  b : Word
  c : Word
  d : Word
  e : Word
  f : Word
deriving DecidableEq, Repr

/-- L1 XOR (43_update_network.md R126). -/
def layer1 (x : Six) : Six := { x with b := x.b ^^^ x.a, d := x.d ^^^ x.c, f := x.f ^^^ x.e }

/-- L2 ADD (43_update_network.md R127). -/
def layer2 (x : Six) : Six := { x with c := x.c + x.b, e := x.e + x.d, a := x.a + x.f }

/-- L3 SUBG (43_update_network.md R128, 90_conflicts.md C1). -/
def layer3 (p : Config.Params) (rom : Rom) (x : Six) : Six :=
  { x with
    d := x.d ^^^ sbox p rom .g1 x.a
    f := x.f ^^^ sbox p rom .g2 x.c
    b := x.b ^^^ sbox p rom .g3 x.e }

/-- L4 SUBH (43_update_network.md R129, 90_conflicts.md C2). -/
def layer4 (p : Config.Params) (rom : Rom) (x : Six) : Six :=
  { x with
    a := x.a ^^^ sbox p rom .h1 x.b
    c := x.c ^^^ sbox p rom .h2 x.d
    e := x.e ^^^ sbox p rom .h3 x.f }

/-- L5 ADD (43_update_network.md R130). -/
def layer5 (x : Six) : Six := { x with f := x.f + x.c, b := x.b + x.e, d := x.d + x.a }

/-- L6 XOR (43_update_network.md R131). -/
def layer6 (x : Six) : Six := { x with a := x.a ^^^ x.f, c := x.c ^^^ x.b, e := x.e ^^^ x.d }

/-- F, the update network: the six layers in order (43_update_network.md R125). -/
def network (p : Config.Params) (rom : Rom) (x : Six) : Six :=
  layer6 (layer5 (layer4 p rom (layer3 p rom (layer2 (layer1 x)))))

/-! The canonical six-call sequence as data (43_update_network.md R125, R132): a second reading of the wiring, which the
layers are stated to agree with. -/

/-- The names of the six words. -/
inductive Wire where
  | a | b | c | d | e | f
deriving DecidableEq, Repr

def Six.get (x : Six) : Wire → Word
  | .a => x.a
  | .b => x.b
  | .c => x.c
  | .d => x.d
  | .e => x.e
  | .f => x.f

def Six.put (x : Six) (w : Wire) (v : Word) : Six :=
  match w with
  | .a => { x with a := v }
  | .b => { x with b := v }
  | .c => { x with c := v }
  | .d => { x with d := v }
  | .e => { x with e := v }
  | .f => { x with f := v }

/-- The operator of one (destination, source) pair; the k-th pair of a subG or subH call uses the k-th box (R132). -/
inductive PairOp where
  | xor
  | add
  | sub (v : Config.BoxName)
deriving DecidableEq, Repr

/-- One pair of a layer call: `dest <- dest OP s'`. -/
structure Pair where
  op : PairOp
  dest : Wire
  src : Wire
deriving DecidableEq, Repr

/-- What one pair does (43_update_network.md R132). -/
def Pair.run (p : Config.Params) (rom : Rom) (x : Six) (q : Pair) : Six :=
  match q.op with
  | .xor => x.put q.dest (x.get q.dest ^^^ x.get q.src)
  | .add => x.put q.dest (x.get q.dest + x.get q.src)
  | .sub v => x.put q.dest (x.get q.dest ^^^ sbox p rom v (x.get q.src))

/-- The three pairs of a call, in the order written. -/
def runCall (p : Config.Params) (rom : Rom) (x : Six) (pairs : List Pair) : Six :=
  pairs.foldl (Pair.run p rom) x

/-- xor(b,a,d,c,f,e), add(c,b,e,d,a,f), subG(d,a,f,c,b,e), subH(a,b,c,d,e,f), add(f,c,b,e,d,a), xor(a,f,c,b,e,d)
(43_update_network.md R125). -/
def canonicalCalls : List (List Pair) :=
  [[⟨.xor, .b, .a⟩, ⟨.xor, .d, .c⟩, ⟨.xor, .f, .e⟩],
   [⟨.add, .c, .b⟩, ⟨.add, .e, .d⟩, ⟨.add, .a, .f⟩],
   [⟨.sub .g1, .d, .a⟩, ⟨.sub .g2, .f, .c⟩, ⟨.sub .g3, .b, .e⟩],
   [⟨.sub .h1, .a, .b⟩, ⟨.sub .h2, .c, .d⟩, ⟨.sub .h3, .e, .f⟩],
   [⟨.add, .f, .c⟩, ⟨.add, .b, .e⟩, ⟨.add, .d, .a⟩],
   [⟨.xor, .a, .f⟩, ⟨.xor, .c, .b⟩, ⟨.xor, .e, .d⟩]]

end Sys2Proof.Machine
end

