-- ==== Sys2Proof/Machine/IvSchedule.lean ====
section
/-! DEFINITION. The IV scheduler and the 16-stage mixing pipeline: LDIV (spec/42_iv_scheduler.md). -/

namespace Sys2Proof.Machine

/-- One entry of IV_LAYOUT: `x[w] <- V`, or `x[w] <- x[w] xor V` (42_iv_scheduler.md R112). -/
def Engine.applyIvEntry (p : Config.Params) (iv : IvMaterial) (e : Engine) (entry : Config.LayoutEntry) : Engine :=
  let v := wordLoad p.wordLoad iv (wordIndexOfByte entry.ivByte)
  match entry.mode with
  | .write => e.setWordAt entry.word v
  | .xor => e.setWordAt entry.word (e.wordAt entry.word ^^^ v)

/-- IV_LAYOUT in list order (42_iv_scheduler.md R110, R113). -/
def Engine.applyIvLayout (p : Config.Params) (iv : IvMaterial) (e : Engine) : Engine :=
  p.ivLayout.foldl (Engine.applyIvEntry p iv) e

/-- The carry words e and f, which live inside one LDIV only (10_state.md R32). -/
structure Carry where
  e : Word
  f : Word
deriving DecidableEq, Repr

/-- A probe word: three logical words XORed (42_iv_scheduler.md R115 step 1). -/
def Engine.probe (e : Engine) (taps : Nat × Nat × Nat) : Word :=
  e.wordAt taps.1 ^^^ e.wordAt taps.2.1 ^^^ e.wordAt taps.2.2

/-- `x[i] <- v xor x[j]` for one pair (i, j) of MIX_FB (42_iv_scheduler.md R115 step 4). -/
def Engine.mixWrite (e : Engine) (fb : (Nat × Nat) × Word) : Engine :=
  e.setWordAt fb.1.1 (fb.2 ^^^ e.wordAt fb.1.2)

/-- The words F gives a stage: the probe words and the carry words through the network (42_iv_scheduler.md R115 steps 1
and 2). -/
def mixOutput (p : Config.Params) (e : Engine) (k : Carry) : Six :=
  network p e.rom ⟨e.probe mixTapsA, e.probe mixTapsB, e.probe mixTapsC, e.probe mixTapsD, k.e, k.f⟩

/-- MIXSTAGE (42_iv_scheduler.md R115). -/
def mixStage (p : Config.Params) (s : Engine × Carry) : Engine × Carry :=
  let o := mixOutput p s.1 s.2
  ((mixFeedback.zip [o.a, o.b, o.c, o.d]).foldl Engine.mixWrite (s.1.rotate mixRot), ⟨o.e, o.f⟩)

/-- `n` mixing stages, one after another (42_iv_scheduler.md R110). -/
def mixStages (p : Config.Params) : Nat → Engine × Carry → Engine × Carry
  | 0, s => s
  | n + 1, s => mixStages p n (mixStage p s)

/-- The restore of R111, which runs only when FRESH = 0. -/
def Engine.restoreUnlessFresh (e : Engine) : Engine := if e.fresh then e else e.restore

/-- The carry words at the start of mixing (42_iv_scheduler.md R114). -/
def Carry.initial : Carry := ⟨e0, f0⟩

/-- The layout and the 16 stages: the register and the final carry words (42_iv_scheduler.md R110). -/
def Engine.mixIv (p : Config.Params) (iv : IvMaterial) (e : Engine) : Engine × Carry :=
  mixStages p nStages (e.restoreUnlessFresh.applyIvLayout p iv, Carry.initial)

/-- The end of LDIV: CTR <- e || f, no block available, FRESH <- 0, PHASE <- PRIMED (42_iv_scheduler.md R110, R116). -/
def Engine.primeWith (m : Engine × Carry) : Engine :=
  ((m.1.setCounter (packCounter m.2.e m.2.f)).dropBlock).markPrimed

/-- What LDIV does to the engine once phase and length are right (42_iv_scheduler.md R110, R116). -/
def Engine.loadIv (p : Config.Params) (iv : IvMaterial) (e : Engine) : Engine := Engine.primeWith (e.mixIv p iv)

/-- LDIV (42_iv_scheduler.md R110), for any parameters. The phase is checked before the length (60_exceptions.md R175). -/
def execLdivWith (p : Config.Params) (payload : List Byte) (s : State) : Host.Outcome State Fault Refusal :=
  if s.engine.phase = .empty then s.raise .notKeyed
  else
    match materialOf ivBytes payload with
    | none => s.raise .invalidIVSize
    | some iv => s.finish (s.engine.loadIv p iv) []

/-- LDIV on this hardware. -/
def execLdiv (payload : List Byte) (s : State) : Host.Outcome State Fault Refusal :=
  execLdivWith Config.params payload s

end Sys2Proof.Machine
end

