-- ==== Sys2Proof/Machine/KeySchedule.lean ====
section
/-! DEFINITION. The key scheduler: LDKEY (spec/41_key_scheduler.md). -/

namespace Sys2Proof.Machine

/-- KEY_LAYOUT: logical word and the j of `K(j) = WORD_LOAD(P, j)` written to it, in increasing word order
(41_key_scheduler.md R101, 90_conflicts.md C3, C5, C9). -/
def keyLayout : List (Nat × Fin 4) :=
  [(0, 0), (1, 1), (2, 2), (3, 3), (4, 2), (5, 3), (6, 0), (7, 1),
   (12, 0), (13, 1), (14, 2), (15, 3), (16, 2), (17, 3), (18, 0), (19, 1),
   (20, 0), (21, 1), (22, 2), (23, 3), (28, 2), (29, 3), (30, 0), (31, 1)]

/-- The 24 logical writes of the key layout (41_key_scheduler.md R101). -/
def keyWrites (p : Config.Params) (key : KeyMaterial) : List (Nat × Word) :=
  keyLayout.map fun w => (w.1, wordLoad p.wordLoad key w.2)

/-- What LDKEY does to the engine once the length is right (41_key_scheduler.md R100). -/
def Engine.loadKey (p : Config.Params) (key : KeyMaterial) (e : Engine) : Engine :=
  (((e.clearRegister.setCounter 0).dropBlock.setWords (keyWrites p key)).takeSnapshot).markKeyed

/-- LDKEY (41_key_scheduler.md R100, 60_exceptions.md R171), for any parameters. -/
def execLdkeyWith (p : Config.Params) (payload : List Byte) (s : State) : Host.Outcome State Fault Refusal :=
  match materialOf keyBytes payload with
  | none => s.raise .invalidKeySize
  | some key => s.finish (s.engine.loadKey p key) []

/-- LDKEY on this hardware. -/
def execLdkey (payload : List Byte) (s : State) : Host.Outcome State Fault Refusal :=
  execLdkeyWith Config.params payload s

end Sys2Proof.Machine
end

