-- ==== Sys2Proof/Machine/Session.lean ====
section
/-! DEFINITION. Session control: CLR (spec/45_session_control.md). -/

namespace Sys2Proof.Machine

/-- What CLR does to the engine; the ROM is not touched (45_session_control.md R165). -/
def Engine.clear (e : Engine) : Engine :=
  ((e.clearRegister.clearSnapshot.dropBlock).setCounter 0).markEmpty

/-- CLR (45_session_control.md R165): accepted in every phase. -/
def execClr (s : State) : Host.Outcome State Fault Refusal := s.finish s.engine.clear []

end Sys2Proof.Machine
end

