-- ==== Sys2Proof/Machine/Stream.lean ====
section
/-! DEFINITION. The round function and the stream driver: ROUND and XORB (spec/44_round_and_stream.md). -/

namespace Sys2Proof.Machine

/-- The six taps of a round; the counter is the value before the increment (44_round_and_stream.md R146). -/
def Engine.roundTaps (e : Engine) : Six where
  a := e.wordAt roundTapA
  b := e.wordAt roundTapB
  c := e.wordAt roundTapC
  d := e.wordAt roundTapD
  e := e.wordAt roundTapE ^^^ hiWord e.ctr
  f := e.wordAt roundTapF ^^^ loWord e.ctr

/-- REGEN: one round (44_round_and_stream.md R146, R147). -/
def Engine.regen (p : Config.Params) (e : Engine) : Engine :=
  let o := network p e.rom e.roundTaps
  ((((e.setCounter (e.ctr + 1)).rotate roundRot).setWordAt roundFeedbackB o.b).setWordAt roundFeedbackC o.c).loadBlock
    (blockOf o.a o.e)

/-- ROUND (44_round_and_stream.md R150), for any parameters. -/
def execRoundWith (p : Config.Params) (s : State) : Host.Outcome State Fault Refusal :=
  if s.engine.phase = .primed then s.finish (s.engine.regen p) (s.engine.regen p).ksBuf.toList
  else s.raise .notPrimed

/-- ROUND on this hardware. -/
def execRound (s : State) : Host.Outcome State Fault Refusal := execRoundWith Config.params s

/-- KSPOS <- k + 1, after keystream byte k was used (44_round_and_stream.md R152). -/
def Engine.advanceTo (e : Engine) (k : Fin blockBytes) : Engine := { e with ksPos := k.succ }

/-- The engine that serves the next keystream byte, and the byte's index: SEQUENTIAL regenerates the block only when it is
exhausted (44_round_and_stream.md R152), FIRST_BYTE on every byte (R153). REGEN leaves KSPOS = 0. -/
def Engine.supply (p : Config.Params) (e : Engine) : Engine × Fin blockBytes :=
  match p.cursorMode with
  | .sequential => if h : e.ksPos.val < blockBytes then (e, ⟨e.ksPos.val, h⟩) else (e.regen p, 0)
  | .firstByte => (e.regen p, 0)

/-- XORB (44_round_and_stream.md R152, R153), for any parameters. -/
def execXorbWith (p : Config.Params) (data : Byte) (s : State) : Host.Outcome State Fault Refusal :=
  if s.engine.phase = .primed then
    let u := s.engine.supply p
    s.finish (u.1.advanceTo u.2) [data ^^^ u.1.ksBuf[u.2]]
  else s.raise .notPrimed

/-- XORB on this hardware. -/
def execXorb (data : Byte) (s : State) : Host.Outcome State Fault Refusal :=
  execXorbWith Config.params data s

end Sys2Proof.Machine
end

