-- ==== Sys2Proof/Machine/Dispatch.lean ====
section
/-! DEFINITION. One arm per command. -/

namespace Sys2Proof.Machine

def exec (i : Instr) (s : State) : Host.Outcome State Fault Refusal :=
  match i with
  | .clr => Sys2Proof.Machine.execClr s
  | .ldkey payload => Sys2Proof.Machine.execLdkey payload s
  | .ldiv payload => Sys2Proof.Machine.execLdiv payload s
  | .round => Sys2Proof.Machine.execRound s
  | .xorb data => Sys2Proof.Machine.execXorb data s

end Sys2Proof.Machine
end

