-- ==== Sys2Proof/Machine/Fetch.lean ====
section
/-! DEFINITION. Taking the next packet from the host's bytes and running it (spec/30_encoding.md R70, R80). -/

namespace Sys2Proof.Machine

/-- What the bytes the host has sent begin with. -/
def State.fetch (s : State) : Decoded := decode s.rx

/-- Running one packet: a command by its meaning, an illegal header by the decoder's own error (30_encoding.md R80, R81,
60_exceptions.md R180). -/
def runPacket (p : Packet) (s : State) : Host.Outcome State Fault Refusal :=
  match p with
  | .command i => exec i s
  | .illegal _ => s.raise .illegalCommand

/-- One move of the engine: consume the next packet and run it. While the packet is not complete the engine waits, executes
nothing and changes no state (30_encoding.md R80; notes/assumptions/2.md). -/
def serveNext (s : State) : Host.Outcome State Fault Refusal :=
  match s.fetch with
  | .packet p rest => runPacket p { s with rx := rest }
  | .incomplete _ => .next s

/-- The host may send these bytes now: no packet is waiting for its response, and with these bytes there is at most one,
with nothing after it. So a second command is never sent before the first response, and after a partial packet the only
move is to go on with that packet (20_memory.md R62, 70_reset_and_hazards.md R193). -/
def State.hostMaySend (s : State) (bytes : List Byte) : Bool :=
  match decode s.rx with
  | .packet _ _ => false
  | .incomplete _ =>
    match decode (s.rx ++ bytes) with
    | .incomplete _ => true
    | .packet _ rest => rest.isEmpty

/-- The host's one move: it sends bytes, when it may; otherwise it has no such move (70_reset_and_hazards.md R193). -/
def State.hostSend (s : State) (bytes : List Byte) : Option State :=
  if s.hostMaySend bytes then some { s with rx := s.rx ++ bytes } else none

/-- The packet whose table bits are `w`, put where the next packet is fetched: at the front of the host's bytes. -/
def State.sendFirst (s : State) (nbits w : Nat) : State :=
  { s with rx := tableWordBytes nbits w ++ s.rx }

end Sys2Proof.Machine
end

