-- ==== Sys2Proof/Machine/Step.lean ====
section
/-! DEFINITION. One step of the machine. -/

namespace Sys2Proof.Machine

/-- One step: the engine serves the next packet of the host, or waits for it (spec/20_memory.md R62, 30_encoding.md R80). -/
def step (s : State) : Host.Outcome State Fault Refusal := serveNext s

/-- `s` with the packet whose table bits are `w` as the host's next packet; it stands for the host sending that packet
(notes/assumptions/8.md). -/
def State.withFetchWord (s : State) (nbits w : Nat) : State := s.sendFirst nbits w

end Sys2Proof.Machine
end

