-- ==== Sys2Proof/Machine/Pseudo.lean ====
section
/-! DEFINITION. Sequences of commands, and the host's pseudo-instructions, which have no encoding of their own
(spec/30_encoding.md R84 to R86). -/

namespace Sys2Proof.Machine

/-- Commands executed one after another, stopping at a fault or a refusal (20_memory.md R62). -/
def execAll : List Instr → State → Host.Outcome State Fault Refusal
  | [], s => .next s
  | i :: is, s =>
    match exec i s with
    | .next t => execAll is t
    | .fault r => .fault r
    | .refused r => .refused r

/-- The last response the engine sent has status OK. -/
def State.lastResponseOk (s : State) : Bool :=
  match s.tx.getLast? with
  | some (status :: _) => status == Status.ok.code
  | _ => false

/-- Commands executed one after another, the host going on only while each is answered OK (30_encoding.md R84). -/
def execWhileOk : List Instr → State → Host.Outcome State Fault Refusal
  | [], s => .next s
  | i :: is, s =>
    match exec i s with
    | .next t => if t.lastResponseOk then execWhileOk is t else .next t
    | .fault r => .fault r
    | .refused r => .refused r

/-- The pseudo-instructions (30_encoding.md R84 to R86). The rules write sixteen key and IV bytes; that the lists here may
have any length, more than 255 included, is a DESIGN CHOICE (notes/assumptions/15.md). -/
inductive Pseudo where
  | newSession (key iv : List Byte)
  | proc (data : List Byte)
  | rekey (iv : List Byte)
deriving DecidableEq, Repr

/-- What a pseudo-instruction expands to. -/
def Pseudo.expand : Pseudo → List Instr
  | .newSession key iv => [.ldkey key, .ldiv iv]
  | .proc data => data.map .xorb
  | .rekey iv => [.ldiv iv]

/-- A pseudo-instruction issued by the host. The LDIV of NEWSESSION is not sent when the LDKEY was answered with an error
(30_encoding.md R84). R86 gives REKEY in phase PRIMED only; in the other phases REKEY is here the plain LDIV of that
phase, a DESIGN CHOICE (notes/assumptions/16.md). A list of more than 255 bytes, which no packet carries, is answered as
any other wrong length, a DESIGN CHOICE (notes/assumptions/15.md). -/
def Pseudo.run (q : Pseudo) (s : State) : Host.Outcome State Fault Refusal :=
  match q with
  | .newSession _ _ => execWhileOk q.expand s
  | .proc _ => execAll q.expand s
  | .rekey _ => execAll q.expand s

end Sys2Proof.Machine
end

