-- ==== Sys2Proof/Machine/Asm.lean ====
section
/-! DEFINITION. The assembler notation (spec/30_encoding.md R83 to R86), over lists of characters. What the notation does
not say is in notes/assumptions/14.md. -/

namespace Sys2Proof.Machine

/-- A hexadecimal digit, capital letters. -/
def digitChar (n : Nat) : Char := if n < 10 then Char.ofNat (48 + n) else Char.ofNat (55 + n)

/-- The value of a hexadecimal digit. -/
def digitValue (c : Char) : Option Nat :=
  if 48 ≤ c.toNat ∧ c.toNat ≤ 57 then some (c.toNat - 48)
  else if 65 ≤ c.toNat ∧ c.toNat ≤ 70 then some (c.toNat - 55)
  else none

/-- A byte as two digits. -/
def byteChars (b : Byte) : List Char := [digitChar (b.toNat / 16), digitChar (b.toNat % 16)]

/-- A two-digit hexadecimal byte. -/
def byteValue : List Char → Option Byte
  | [h, l] => (digitValue h).bind fun x => (digitValue l).map fun y => BitVec.ofNat 8 (16 * x + y)
  | _ => none

/-- A list of two-digit hexadecimal bytes. -/
def byteValues : List (List Char) → Option (List Byte)
  | [] => some []
  | w :: ws => (byteValue w).bind fun b => (byteValues ws).map fun bs => b :: bs

/-- The words of a line: `acc` is the word being read, its last character first; `;` starts a comment. -/
def lineWords : List Char → List Char → List (List Char)
  | acc, [] => if acc = [] then [] else [acc.reverse]
  | acc, c :: cs =>
    if c = ';' then (if acc = [] then [] else [acc.reverse])
    else if c = ' ' then (if acc = [] then lineWords [] cs else acc.reverse :: lineWords [] cs)
    else lineWords (c :: acc) cs

/-- What one line stands for. -/
inductive Line where
  | blank
  | command (i : Instr)
  | pseudo (q : Pseudo)
deriving DecidableEq, Repr

def nameClr : List Char := ['C', 'L', 'R']
def nameLdkey : List Char := ['L', 'D', 'K', 'E', 'Y']
def nameLdiv : List Char := ['L', 'D', 'I', 'V']
def nameRound : List Char := ['R', 'O', 'U', 'N', 'D']
def nameXorb : List Char := ['X', 'O', 'R', 'B']
def nameNewSession : List Char := ['N', 'E', 'W', 'S', 'E', 'S', 'S', 'I', 'O', 'N']
def nameProc : List Char := ['P', 'R', 'O', 'C']
def nameRekey : List Char := ['R', 'E', 'K', 'E', 'Y']

/-- A command whose payload is the written bytes, when LEN fits in one byte (30_encoding.md R72, R83). -/
def materialLine (command : List Byte → Instr) (args : List (List Char)) : Option Line :=
  (byteValues args).bind fun bs => if payloadFits bs then some (.command (command bs)) else none

/-- A REKEY line, when LEN of its LDIV fits in one byte; that it is refused otherwise is a DESIGN CHOICE
(notes/assumptions/14.md). -/
def rekeyLine (args : List (List Char)) : Option Line :=
  (byteValues args).bind fun v => if payloadFits v then some (.pseudo (.rekey v)) else none

/-- A NEWSESSION line, when LEN of its LDKEY and of its LDIV fit in one byte each; that it is refused otherwise is a
DESIGN CHOICE (notes/assumptions/14.md). -/
def newSessionLine (args : List (List Char)) : Option Line :=
  match args.span (· ≠ ['/']) with
  | (ks, _ :: vs) =>
    (byteValues ks).bind fun k => (byteValues vs).bind fun v =>
      if payloadFits k && payloadFits v then some (.pseudo (.newSession k v)) else none
  | _ => none

/-- One line of assembler text, split into words. What 30_encoding.md R83 to R86 leave open of it is a DESIGN CHOICE
(notes/assumptions/14.md): among it, that no LDKEY, LDIV, NEWSESSION or REKEY line with more than 255 bytes of key or of
IV assembles. -/
def assembleWords : List (List Char) → Option Line
  | [] => some .blank
  | name :: args =>
    if name = nameClr then (if args = [] then some (.command .clr) else none)
    else if name = nameRound then (if args = [] then some (.command .round) else none)
    else if name = nameLdkey then materialLine .ldkey args
    else if name = nameLdiv then materialLine .ldiv args
    else if name = nameXorb then
      match args with
      | [w] => (byteValue w).map fun b => .command (.xorb b)
      | _ => none
    else if name = nameNewSession then newSessionLine args
    else if name = nameProc then (byteValues args).map fun bs => .pseudo (.proc bs)
    else if name = nameRekey then rekeyLine args
    else none

/-- One line of assembler text (30_encoding.md R83). -/
def assemble (line : List Char) : Option Line := assembleWords (lineWords [] line)

/-- A command in the notation of R83: the mnemonic, then each byte after one space. -/
def printInstr : Instr → List Char
  | .clr => nameClr
  | .ldkey payload => nameLdkey ++ payload.flatMap fun b => ' ' :: byteChars b
  | .ldiv payload => nameLdiv ++ payload.flatMap fun b => ' ' :: byteChars b
  | .round => nameRound
  | .xorb data => nameXorb ++ ' ' :: byteChars data

end Sys2Proof.Machine
end

