-- ==== Sys2Proof/Machine/Engines.lean ====
section
/-! DEFINITION. Several engines: the product of independent models of one engine (spec/10_state.md R38). -/

namespace Sys2Proof.Machine

/-- Engine `k` of several takes one step; no other engine is touched. The spec's product of instances has no step of an
engine that is not there; that for such a `k` the answer is the list unchanged is a DESIGN CHOICE
(notes/assumptions/12.md). -/
def stepEngine (k : Nat) (engines : List State) : Host.Outcome (List State) Fault Refusal :=
  match engines[k]? with
  | none => .next engines
  | some s =>
    match step s with
    | .next t => .next (engines.set k t)
    | .fault r => .fault r
    | .refused r => .refused r

end Sys2Proof.Machine
end

