-- ==== Sys2Proof/Machine/TestRoms.lean ====
section
/-! DEFINITION. The two test ROMs of spec/95_test_vectors.md section 2. They are not the real tables and no meaning uses
them; statements and tests that give the spec's derived vectors name them. -/

namespace Sys2Proof.Machine

/-- ROM_ZERO: every entry is zero. -/
def romZero : Rom := ⟨romTable fun _ => 0, romTable fun _ => 0⟩

/-- ROM_T: `S1(i) = 9E3779B9 * (i + 1)`, `S2(i) = 85EBCA6B * (i + 1) + 27D4EB2F`, modulo 2^32. -/
def romT : Rom where
  rom1 := romTable fun i => 0x9E3779B9#32 * (i.setWidth wordBits + 1)
  rom2 := romTable fun i => 0x85EBCA6B#32 * (i.setWidth wordBits + 1) + 0x27D4EB2F

end Sys2Proof.Machine
end

