-- ==== Sys2Proof/Safety.lean ====
section
/-! DEFINITION. What claims about the machine speak of: the invariants of spec/10_state.md R34, the form of a response,
the logical view of an engine, and the keystream as a sequence. -/

namespace Sys2Proof.Machine

/-! The register image of a key. -/

/-- The register after LDKEY, by the four loaded words K(0..3) (41_key_scheduler.md R103). -/
def keyImageOf (k0 k4 k8 k12 : Word) : Vector Word nWords :=
  #v[k0, k4, k8, k12, k8, k12, k0, k4, 0, 0, 0, 0, k0, k4, k8, k12,
     k8, k12, k0, k4, k0, k4, k8, k12, 0, 0, 0, 0, k8, k12, k0, k4]

/-- The register image of a key under the literal word load: bytes 0, 4, 8 and 12, zero-extended (41_key_scheduler.md
R103, 20_memory.md R59). -/
def keyImage (key : KeyMaterial) : Vector Word nWords :=
  keyImageOf (key[0].setWidth 32) (key[4].setWidth 32) (key[8].setWidth 32) (key[12].setWidth 32)

/-! Invariants. -/

/-- What holds of every reachable engine (10_state.md R34). The key layout that SNAP holds is the one of the LITERAL word
load (notes/assumptions/6.md). -/
structure Engine.Inv (e : Engine) : Prop where
  keySize_values : e.keySize = 0 ∨ e.keySize = 128
  fresh_iff_keyed : e.fresh = true ↔ e.phase = .keyed
  keySize_zero_iff_empty : e.keySize = 0 ↔ e.phase = .empty
  empty_is_clear : e.phase = .empty →
    e.reg = Vector.replicate 32 0 ∧ e.snap = Vector.replicate 32 0 ∧ e.ksBuf = Vector.replicate 8 0 ∧
      e.off = 0 ∧ e.ctr = 0 ∧ e.ksPos = 8
  keyed_is_scheduled : e.phase = .keyed →
    e.reg = e.snap ∧ e.off = 0 ∧ e.ctr = 0 ∧ e.ksPos = 8 ∧ e.ksBuf = Vector.replicate 8 0
  primed_even : e.phase = .primed → e.off.toNat % 2 = 0
  snap_is_key_layout : e.phase ≠ .empty → ∃ key : KeyMaterial, e.snap = keyImage key

/-- The form of a response packet (30_encoding.md R75, 60_exceptions.md R170): status 0x00 and 0, 1 or 8 result bytes, or
one of the five status bytes an error of this hardware has, alone. -/
def responseWellFormed : List Byte → Bool
  | [] => false
  | status :: bytes =>
    (status == 0x00 && (bytes.length == 0 || bytes.length == 1 || bytes.length == 8))
      || ([0x01, 0x02, 0x04, 0x05, 0x06].contains status && bytes.isEmpty)

/-- How many result bytes a successful command answers (30_encoding.md R75). -/
def resultLength : Instr → Nat
  | .clr => 0
  | .ldkey _ => 0
  | .ldiv _ => 0
  | .round => 8
  | .xorb _ => 1

/-- The status each command gets in each phase (45_session_control.md R166). -/
def expectedStatus (i : Instr) (ph : Phase) : Status :=
  match i, ph with
  | .clr, _ => .ok
  | .ldkey payload, _ => if payload.length = 16 then .ok else .invalidKeySize
  | .ldiv _, .empty => .notKeyed
  | .ldiv payload, .keyed => if payload.length = 16 then .ok else .invalidIVSize
  | .ldiv payload, .primed => if payload.length = 16 then .ok else .invalidIVSize
  | .round, .empty => .notPrimed
  | .round, .keyed => .notPrimed
  | .round, .primed => .ok
  | .xorb _, .empty => .notPrimed
  | .xorb _, .keyed => .notPrimed
  | .xorb _, .primed => .ok

/-- The phase each command leaves after success (45_session_control.md R166). -/
def phaseAfterSuccess : Instr → Phase
  | .clr => .empty
  | .ldkey _ => .keyed
  | .ldiv _ => .primed
  | .round => .primed
  | .xorb _ => .primed

/-! Views of an engine. -/

/-- Two engines whose logical views agree and whose other state, but for R and OFF themselves, is equal
(40_nlfsr_addressing.md R94). -/
structure Engine.SameView (x y : Engine) : Prop where
  words : ∀ i, x.wordAt i = y.wordAt i
  ctr : x.ctr = y.ctr
  keySize : x.keySize = y.keySize
  fresh : x.fresh = y.fresh
  snap : x.snap = y.snap
  ksBuf : x.ksBuf = y.ksBuf
  ksPos : x.ksPos = y.ksPos
  phase : x.phase = y.phase
  rom : x.rom = y.rom

/-! Packets and the keystream. -/

/-- The packets of a list served one after another. -/
def runPackets : List Packet → State → Host.Outcome State Fault Refusal
  | [], s => .next s
  | p :: ps, s =>
    match runPacket p s with
    | .next t => runPackets ps t
    | .fault r => .fault r
    | .refused r => .refused r

/-- XORB commands for any parameters, one after another. -/
def xorbAllWith (p : Config.Params) : List Byte → State → Host.Outcome State Fault Refusal
  | [], s => .next s
  | d :: ds, s =>
    match execXorbWith p d s with
    | .next t => xorbAllWith p ds t
    | .fault r => .fault r
    | .refused r => .refused r

/-- The engine after `n` rounds. -/
def Engine.rounds (p : Config.Params) (n : Nat) (e : Engine) : Engine := (Engine.regen p)^[n] e

/-- B_n: the block of the n-th round from `e`, counting from 0 (44_round_and_stream.md R154). -/
def Engine.block (p : Config.Params) (e : Engine) (n : Nat) : Vector Byte blockBytes := (e.rounds p (n + 1)).ksBuf

/-- `ks[8n + k] = B_n[k]` (44_round_and_stream.md R154). -/
def Engine.keystream (p : Config.Params) (e : Engine) (i : Nat) : Byte :=
  (e.block p (i / 8))[i % 8]'(Nat.mod_lt _ (by decide))

/-- ROUND (`none`) and XORB (`some data`) commands (44_round_and_stream.md R155). -/
def streamCommand : Option Byte → Instr
  | none => .round
  | some data => .xorb data

/-- The commands of a second run that feed the result bytes of a first run's responses back as data, with the ROUND
commands at the same places (44_round_and_stream.md R155). -/
def feedBack : List (Option Byte) → List (List Byte) → List (Option Byte)
  | none :: cs, _ :: rs => none :: feedBack cs rs
  | some _ :: cs, [_, result] :: rs => some result :: feedBack cs rs
  | _, _ => []

/-- The responses a second run must give: the blocks of the ROUNDs again, and the original data bytes. -/
def recovered : List (Option Byte) → List (List Byte) → List (List Byte)
  | none :: cs, r :: rs => r :: recovered cs rs
  | some data :: cs, _ :: rs => [0x00, data] :: recovered cs rs
  | _, _ => []

end Sys2Proof.Machine
end

