-- ==== Sys2Proof/Certificates/Slice0/Obligations.lean ====
section
/-! DEFINITION. The statements for the provers. `OBLIGATIONS.json` lists them with the rules they rest on. -/

open Sys2Proof Sys2Proof.Machine

/-! The decoder and the encoder (spec/30_encoding.md). -/

/-- R80, R74: decoding the bytes of any packet the host can send, a command with any operands or an illegal header,
gives that packet and leaves the bytes after it. -/
def Obligations.EncodedPacketsDecodeBack : Prop :=
  ∀ (p : Packet) (rest : List Byte), p.wellFormed = true → decode (encodePacket p ++ rest) = .packet p rest

/-- R80: whatever packet the decoder reads is one the host can send, and the bytes consumed are exactly its bytes. -/
def Obligations.DecodedPacketsAreTheirBytes : Prop :=
  ∀ (bs rest : List Byte) (p : Packet), decode bs = .packet p rest →
    p.wellFormed = true ∧ bs = encodePacket p ++ rest

/-- R80: the decoder has no packet yet exactly when the header is not complete, or the payload of OP 0x02 or 0x03 is
shorter than ARG says. -/
def Obligations.DecoderWaitsExactlyOnPartialPackets : Prop :=
  ∀ bs : List Byte,
    (decode bs = .incomplete .header ↔ bs.length < 2) ∧
    (decode bs = .incomplete .payload ↔
      ∃ op arg rest, bs = op :: arg :: rest ∧ (op = 0x02 ∨ op = 0x03) ∧ rest.length < arg.toNat)

/-- R81: the illegal headers are those with OP = 0x00 or OP in 0x06..0xFF, and 0x01xx and 0x04xx with xx ≠ 0x00; they
are the headers that select no row of the opcode map, and an illegal packet is two bytes long. -/
def Obligations.IllegalHeadersAreThoseListed : Prop :=
  ∀ (op arg : Byte) (rest : List Byte),
    ((∃ why rest', decode (op :: arg :: rest) = .packet (.illegal why) rest') ↔
      op = 0x00 ∨ 0x06 ≤ op.toNat ∨ ((op = 0x01 ∨ op = 0x04) ∧ arg ≠ 0x00)) ∧
    ((∃ why rest', decode (op :: arg :: rest) = .packet (.illegal why) rest') ↔
      ∀ r ∈ opcodeMap, r.selects (headerOf op arg) = false) ∧
    (∀ why rest', decode (op :: arg :: rest) = .packet (.illegal why) rest' → rest' = rest)

/-- R74: every header selects at most one row of the opcode map, and a packet that decodes to a command selects that
command's row. -/
def Obligations.DecoderFollowsTheOpcodeMap : Prop :=
  (∀ h : BitVec 16, (opcodeMap.filter fun r => r.selects h).length ≤ 1) ∧
  ∀ (op arg : Byte) (rest rest' : List Byte) (i : Instr), decode (op :: arg :: rest) = .packet (.command i) rest' →
    i.row ∈ opcodeMap ∧ i.row.selects (headerOf op arg) = true

/-- R83, 95_test_vectors.md section 9: packets written out by hand decode to the commands they stand for. -/
def Obligations.WordsDecodeAsWritten : Prop :=
  decode [0x01, 0x00] = .packet (.command .clr) [] ∧
  decode [0x02, 0x10, 0x00, 0x01, 0x02, 0x03, 0x04, 0x05, 0x06, 0x07, 0x08, 0x09, 0x0A, 0x0B, 0x0C, 0x0D, 0x0E, 0x0F, 0x04]
    = .packet (.command (.ldkey [0x00, 0x01, 0x02, 0x03, 0x04, 0x05, 0x06, 0x07, 0x08, 0x09, 0x0A, 0x0B, 0x0C, 0x0D, 0x0E,
      0x0F])) [0x04] ∧
  decode [0x03, 0x02, 0x10, 0x11, 0x12] = .packet (.command (.ldiv [0x10, 0x11])) [0x12] ∧
  decode [0x04, 0x00] = .packet (.command .round) [] ∧
  decode [0x05, 0x48] = .packet (.command (.xorb 0x48)) [] ∧
  decode [0x07, 0x10, 0x01, 0x00] = .packet (.illegal (.unknownOpcode 0x07 0x10)) [0x01, 0x00] ∧
  decode [0x04, 0x01] = .packet (.illegal (.nonzeroArgument 0x04 0x01)) []

/-! The step. -/

/-- R70, R80: when the host's bytes begin with the packet of a command, the step consumes that packet and is the
meaning of the command, with nothing else around it. -/
def Obligations.StepRunsTheDecodedCommand : Prop :=
  ∀ (s : State) (i : Instr) (rest : List Byte), decode s.rx = .packet (.command i) rest →
    step s = exec i { s with rx := rest }

/-- R180: an illegal header is answered 0x06; two bytes are consumed, and nothing is executed. -/
def Obligations.StepAnswersIllegalHeaders : Prop :=
  ∀ (s : State) (op arg : Byte) (rest : List Byte), s.rx = op :: arg :: rest →
    (op = 0x00 ∨ 0x06 ≤ op.toNat ∨ ((op = 0x01 ∨ op = 0x04) ∧ arg ≠ 0x00)) →
    step s = .next { s with rx := rest, tx := s.tx ++ [[0x06]] }

/-- R80: while the packet is not complete the engine waits, executes nothing and changes no state. That waiting is a
step to the same state is the model's choice (notes/assumptions/2.md). -/
def Obligations.StepWaitsForTheRestOfAPacket : Prop :=
  ∀ s : State,
    (s.rx.length < 2 ∨
      ∃ op arg rest, s.rx = op :: arg :: rest ∧ (op = 0x02 ∨ op = 0x03) ∧ rest.length < arg.toNat) →
    step s = .next s

/-- R188 (which the spec marks as derived): no state makes the machine stop. That waiting on a partial
packet is a step to the same state is the model's choice (notes/assumptions/2.md). -/
def Obligations.StepNeverStops : Prop :=
  ∀ s : State, ∃ t, step s = .next t

/-- R70, R75: a step that does not wait consumes exactly one packet and sends exactly one response, and the response
has one of the forms of R75 with a status of R170. That the wait is a step to the same state is the model's choice
(notes/assumptions/2.md). -/
def Obligations.OnePacketOneResponse : Prop :=
  ∀ s t : State, step s = .next t →
    (t = s ∧ ∃ m, decode s.rx = .incomplete m) ∨
    ∃ (p : Packet) (response : List Byte), p.wellFormed = true ∧ s.rx = encodePacket p ++ t.rx ∧
      t.tx = s.tx ++ [response] ∧ responseWellFormed response = true

/-- R62 and R203, which the spec marks as derived: the engine serves the packets of a byte stream strictly in order,
one a step: running the byte-level machine over a stream of packets is running the packets' meanings one after
another. That several packets may wait in rx at once is the model's choice (notes/assumptions/1.md); the host's own
move never puts them there (R193, State.hostSend). -/
def Obligations.RunServesPacketsInOrder : Prop :=
  ∀ (ps : List Packet) (rest : List Byte) (s : State), (∀ p ∈ ps, p.wellFormed = true) →
    Sys2Proof.core.run ps.length { s with rx := ps.flatMap encodePacket ++ rest } = runPackets ps { s with rx := rest }

/-! The state as a whole. -/

/-- R94 (which the spec marks as derived), R35: two engines whose logical views agree and whose other state is equal
give the same responses to every byte stream, however long, and their views still agree; and if the engines were equal
they are still equal. The steps counted may be waits on a partial packet; that such a wait is a step to the same state
is the model's choice (notes/assumptions/2.md). -/
def Obligations.SameViewSameResponses : Prop :=
  ∀ (n : Nat) (s t : State), s.engine.SameView t.engine → s.rx = t.rx →
    ∃ (u v : State) (responses : List (List Byte)),
      Sys2Proof.core.run n s = .next u ∧ Sys2Proof.core.run n t = .next v ∧
      u.engine.SameView v.engine ∧ u.rx = v.rx ∧
      u.tx = s.tx ++ responses ∧ v.tx = t.tx ++ responses ∧
      (s.engine = t.engine → u.engine = v.engine)

/-- R94 (which the spec marks as derived): the commands that write R physically (CLR, LDKEY, and LDIV when it
restores) leave two engines of the same view equal. -/
def Obligations.LoadingMakesSameViewsEqual : Prop :=
  ∀ (s t s' t' : State) (i : Instr), s.engine.SameView t.engine →
    (i = .clr ∨ (∃ key : KeyMaterial, i = .ldkey key.toList) ∨
      (s.engine.phase ≠ .empty ∧ s.engine.fresh = false ∧ ∃ iv : IvMaterial, i = .ldiv iv.toList)) →
    exec i s = .next s' → exec i t = .next t' → s'.engine = t'.engine

/-- R24: nothing reads KEYSIZE: with another value in it a command answers the same and leaves every other field the
same; and only CLR and LDKEY write it. That exec answers a payload of more than 255 bytes, which no packet carries, as
any other wrong length is the model's choice (notes/assumptions/3.md). -/
def Obligations.KeySizeIsReadByNothing : Prop :=
  ∀ (i : Instr) (s : State) (k : BitVec 8), ∃ t t' : State,
    exec i s = .next t ∧ exec i { s with engine := { s.engine with keySize := k } } = .next t' ∧
    t'.tx = t.tx ∧ t'.rx = t.rx ∧ t'.engine = { t.engine with keySize := t'.engine.keySize } ∧
    (i ≠ .clr → (∀ payload, i ≠ .ldkey payload) → t.engine.keySize = s.engine.keySize ∧ t'.engine.keySize = k)

/-- R36, R190: every field at its reset value; the ROM holds S1 and S2. -/
def Obligations.ResetState : Prop :=
  State.reset.engine.reg = Vector.replicate 32 0 ∧ State.reset.engine.off = 0 ∧ State.reset.engine.ctr = 0 ∧
  State.reset.engine.keySize = 0 ∧ State.reset.engine.fresh = false ∧
  State.reset.engine.snap = Vector.replicate 32 0 ∧ State.reset.engine.ksBuf = Vector.replicate 8 0 ∧
  State.reset.engine.ksPos = 8 ∧ State.reset.engine.phase = .empty ∧
  ∀ v : Byte, State.reset.engine.rom.rom1[v.toNat]'v.isLt = Config.s1 v ∧ State.reset.engine.rom.rom2[v.toNat]'v.isLt = Config.s2 v

/-- R34 (which the spec marks as derived): the invariant holds after reset. Its clause on SNAP is written with
the LITERAL word load (notes/assumptions/6.md, DEDUCED), and says nothing in phase EMPTY. -/
def Obligations.ResetMeetsInvariant : Prop := State.reset.engine.Inv

/-- R34 (which the spec marks as derived): every step keeps the invariant, from every state that meets it. Its
clause on SNAP is written with the LITERAL word load; that the hardware's own parameters have no other, so that SNAP
holds this image, is the model's (notes/assumptions/6.md, DEDUCED). -/
def Obligations.StepKeepsInvariant : Prop :=
  ∀ s t : State, s.engine.Inv → step s = .next t → t.engine.Inv

/-- R30: no step writes the ROM. -/
def Obligations.StepNeverWritesRom : Prop :=
  ∀ s t : State, step s = .next t → t.engine.rom = s.engine.rom

/-! CLR (spec/45_session_control.md). -/

/-- R165: CLR is accepted in every phase, answers 0x00 and leaves every field of the engine as after reset but the
ROM, which it does not touch; after it LDIV is refused with NotKeyed and ROUND and XORB with NotPrimed. That exec
answers an LDIV payload of more than 255 bytes, which no packet carries, in the same way is the model's choice
(notes/assumptions/3.md). -/
def Obligations.ClrGivesTheResetState : Prop :=
  ∀ s : State, ∃ t : State,
    exec .clr s = .next t ∧
    t = { engine := { Engine.reset with rom := s.engine.rom }, rx := s.rx, tx := s.tx ++ [[0x00]] } ∧
    (s.engine.rom = Engine.reset.rom → t.engine = Engine.reset) ∧
    (∀ payload, exec (.ldiv payload) t = .next { t with tx := t.tx ++ [[0x04]] }) ∧
    exec .round t = .next { t with tx := t.tx ++ [[0x05]] } ∧
    (∀ data, exec (.xorb data) t = .next { t with tx := t.tx ++ [[0x05]] })

/-! LDKEY (spec/41_key_scheduler.md). -/

/-- R100 to R103: LDKEY with sixteen bytes, in every phase: R and SNAP hold the key image, everything else is cleared
or set as written here, the ROM is unchanged, and the response is 0x00. With it, the worked example of R103, a rule
which the spec marks as derived. R101 and R103 give this image under the default WORD_LOAD; that the hardware's own
parameters have no other, so that the image holds for them, is the model's (notes/assumptions/6.md, DEDUCED). -/
def Obligations.LdkeyLaysOutTheKey : Prop :=
  (∀ (key : KeyMaterial) (s : State),
    exec (.ldkey key.toList) s = .next
      { engine :=
          { reg := keyImage key, off := 0, ctr := 0, keySize := 128, fresh := true, snap := keyImage key
            ksBuf := Vector.replicate 8 0, ksPos := 8, phase := .keyed, rom := s.engine.rom }
        rx := s.rx
        tx := s.tx ++ [[0x00]] }) ∧
  keyImage #v[0x00, 0x01, 0x02, 0x03, 0x04, 0x05, 0x06, 0x07, 0x08, 0x09, 0x0A, 0x0B, 0x0C, 0x0D, 0x0E, 0x0F] =
    #v[0x00, 0x04, 0x08, 0x0C, 0x08, 0x0C, 0x00, 0x04, 0, 0, 0, 0, 0x00, 0x04, 0x08, 0x0C,
       0x08, 0x0C, 0x00, 0x04, 0x00, 0x04, 0x08, 0x0C, 0, 0, 0, 0, 0x08, 0x0C, 0x00, 0x04]

/-- R171: LDKEY with a length other than 16 answers 0x01 and changes nothing, in every phase, after its payload was
consumed; a key of sixteen bytes, whatever they are, is never refused. That exec answers a payload of more than 255
bytes, which no packet carries, in the same way is the model's choice (notes/assumptions/3.md). -/
def Obligations.LdkeyRefusesWrongLength : Prop :=
  ∀ s : State,
    (∀ payload : List Byte, payload.length ≠ 16 → exec (.ldkey payload) s = .next { s with tx := s.tx ++ [[0x01]] }) ∧
    (∀ payload rest : List Byte, payload.length ≠ 16 → payload.length ≤ 255 →
      s.rx = 0x02 :: BitVec.ofNat 8 payload.length :: (payload ++ rest) →
      step s = .next { s with rx := rest, tx := s.tx ++ [[0x01]] }) ∧
    (∀ key : KeyMaterial, ∃ t, exec (.ldkey key.toList) s = .next t ∧ t.tx = s.tx ++ [[0x00]])

/-- R104, R119, R195 (which the spec marks as derived): of the sixteen bytes of a key or an IV only bytes 0, 4, 8 and
12 matter, and every word of a key image is below 0x100. That WORD_LOAD is LITERAL is the model's (notes/assumptions/6.md,
DEDUCED). -/
def Obligations.OnlyFourBytesOfMaterialMatter : Prop :=
  (∀ x y : KeyMaterial, x[0] = y[0] → x[4] = y[4] → x[8] = y[8] → x[12] = y[12] →
    ∀ s : State, exec (.ldkey x.toList) s = exec (.ldkey y.toList) s) ∧
  (∀ x y : IvMaterial, x[0] = y[0] → x[4] = y[4] → x[8] = y[8] → x[12] = y[12] →
    ∀ s : State, exec (.ldiv x.toList) s = exec (.ldiv y.toList) s) ∧
  ∀ (key : KeyMaterial) (q : Fin 32), ((keyImage key)[q]).toNat < 0x100

/-! LDIV (spec/42_iv_scheduler.md). -/

/-- R173: in phase EMPTY LDIV answers 0x04 and changes nothing; that it does so whatever its length is the order of
the checks, R175. That exec answers a payload of more than 255 bytes, which no packet carries, in the same way is the
model's choice (notes/assumptions/3.md). -/
def Obligations.LdivNeedsAKey : Prop :=
  ∀ (payload : List Byte) (s : State), s.engine.phase = .empty →
    exec (.ldiv payload) s = .next { s with tx := s.tx ++ [[0x04]] }

/-- R172: outside phase EMPTY LDIV with a length other than 16 answers 0x02 and changes nothing, after its payload was
consumed; an IV of sixteen bytes, whatever they are, is never refused. That exec answers a payload of more than 255
bytes, which no packet carries, in the same way is the model's choice (notes/assumptions/3.md). -/
def Obligations.LdivRefusesWrongLength : Prop :=
  ∀ s : State, s.engine.phase ≠ .empty →
    (∀ payload : List Byte, payload.length ≠ 16 → exec (.ldiv payload) s = .next { s with tx := s.tx ++ [[0x02]] }) ∧
    (∀ payload rest : List Byte, payload.length ≠ 16 → payload.length ≤ 255 →
      s.rx = 0x03 :: BitVec.ofNat 8 payload.length :: (payload ++ rest) →
      step s = .next { s with rx := rest, tx := s.tx ++ [[0x02]] }) ∧
    (∀ iv : IvMaterial, ∃ t, exec (.ldiv iv.toList) s = .next t ∧ t.tx = s.tx ++ [[0x00]])

/-- R110, R111, R114, R116: LDIV with sixteen bytes outside phase EMPTY. R is restored from SNAP with OFF = 0 when
FRESH is 0, takes the IV layout and sixteen mixing stages from the carry words E0, F0; CTR is e || f; OFF is what it
was before the stages; KEYSIZE, SNAP and the ROM are unchanged. -/
def Obligations.LdivMixesTheIv : Prop :=
  ∀ (iv : IvMaterial) (s : State), s.engine.phase ≠ .empty →
    let start : Engine := if s.engine.fresh = true then s.engine else { s.engine with reg := s.engine.snap, off := 0 }
    let mixed := mixStages Config.params 16 (start.applyIvLayout Config.params iv, ⟨0x00004472, 0x61676F6E⟩)
    exec (.ldiv iv.toList) s = .next
      { engine :=
          { s.engine with
            reg := mixed.1.reg
            off := start.off
            ctr := mixed.2.e ++ mixed.2.f
            fresh := false
            ksBuf := Vector.replicate 8 0
            ksPos := 8
            phase := .primed }
        rx := s.rx
        tx := s.tx ++ [[0x00]] }

/-- R115: one mixing stage, in the indices before its rotation: F of the four probe words and the carry words; OFF +
28; the words that were logical 28 to 31 become a, b, c, d XORed with the words that were logical 16 to 19; every
other word and every other field is unchanged. The rule writes its last step in the indices after the rotation; the
spec marks as derived what it says of them in the indices before. -/
def Obligations.MixStageEffect : Prop :=
  ∀ (p : Config.Params) (e : Engine) (k : Carry),
    let x := e.wordAt
    let o := network p e.rom
      ⟨x 0 ^^^ x 24 ^^^ x 28, x 1 ^^^ x 25 ^^^ x 29, x 2 ^^^ x 26 ^^^ x 30, x 3 ^^^ x 27 ^^^ x 31, k.e, k.f⟩
    let r := mixStage p (e, k)
    r.2 = ⟨o.e, o.f⟩ ∧
    r.1 = { e with reg := r.1.reg, off := e.off + 28 } ∧
    r.1.wordAt 0 = o.a ^^^ x 16 ∧ r.1.wordAt 1 = o.b ^^^ x 17 ∧
    r.1.wordAt 2 = o.c ^^^ x 18 ∧ r.1.wordAt 3 = o.d ^^^ x 19 ∧
    ∀ i, 4 ≤ i → i < 32 → r.1.wordAt i = x (i + 28)

/-- R117 (which the spec marks as derived): OFF after each stage; sixteen stages leave OFF where it was; from OFF = 0
it runs through 28, 24, .., 0 twice; and the stage writes only the four physical cells from its own OFF on. -/
def Obligations.MixingWalksTheWindow : Prop :=
  ∀ (p : Config.Params) (s : Engine × Carry),
    (∀ n, (mixStages p n s).1.off = s.1.off + BitVec.ofNat 5 (28 * n)) ∧
    (mixStages p 16 s).1.off = s.1.off ∧
    (s.1.off = 0 → (List.range 16).map (fun n => (mixStages p (n + 1) s).1.off.toNat) =
      [28, 24, 20, 16, 12, 8, 4, 0, 28, 24, 20, 16, 12, 8, 4, 0]) ∧
    ∀ (n : Nat) (q : Fin 32),
      (∀ j < 4, q ≠ physIndex (mixStages p (n + 1) s).1.off j) →
      (mixStages p (n + 1) s).1.reg[q] = (mixStages p n s).1.reg[q]

/-- R21, R111, 90_conflicts.md C7: the bulk operations on R are calls of the logical accessors at OFF = 0. -/
def Obligations.BulkOperationsAreAccessorCalls : Prop :=
  ∀ e : Engine,
    e.restore = (List.finRange 32).foldl (fun x q => x.setWordAt q.val e.snap[q]) { e with off := 0 } ∧
    e.clearRegister = (List.finRange 32).foldl (fun x q => x.setWordAt q.val 0) { e with off := 0 } ∧
    (e.off = 0 → ∀ q : Fin 32, e.takeSnapshot.snap[q] = e.wordAt q.val)

/-- R113: under the default IV_LAYOUT (the spec's own choice, 92_eei_decisions.md D10) the register after LDKEY and
the layout step, in the bytes of key and IV, with the rule's worked example. -/
def Obligations.DefaultIvLayoutRegister : Prop :=
  (∀ (key : KeyMaterial) (iv : IvMaterial),
    let k (i : Fin 16) : Word := key[i].setWidth 32
    let v (i : Fin 16) : Word := iv[i].setWidth 32
    ((Engine.reset.loadKey Config.Params.default key).applyIvLayout Config.Params.default iv).reg =
      #v[k 0, k 4, k 8, k 12, k 8 ^^^ v 0, k 12 ^^^ v 4, k 0, k 4, v 0, v 4, v 8, v 12,
         k 0 ^^^ v 0, k 4 ^^^ v 4, k 8, k 12, k 8 ^^^ v 0, k 12 ^^^ v 4, k 0 ^^^ v 8, k 4 ^^^ v 12,
         k 0, k 4, k 8, k 12, v 0, v 4, v 8, v 12, k 8 ^^^ v 0, k 12 ^^^ v 4, k 0, k 4]) ∧
  ((Engine.reset.loadKey Config.Params.default
      #v[0x00, 0x01, 0x02, 0x03, 0x04, 0x05, 0x06, 0x07, 0x08, 0x09, 0x0A, 0x0B, 0x0C, 0x0D, 0x0E, 0x0F]).applyIvLayout
    Config.Params.default
      #v[0x10, 0x11, 0x12, 0x13, 0x14, 0x15, 0x16, 0x17, 0x18, 0x19, 0x1A, 0x1B, 0x1C, 0x1D, 0x1E, 0x1F]).reg =
    #v[0x00, 0x04, 0x08, 0x0C, 0x18, 0x18, 0x00, 0x04, 0x10, 0x14, 0x18, 0x1C, 0x10, 0x10, 0x08, 0x0C,
       0x18, 0x18, 0x18, 0x18, 0x00, 0x04, 0x08, 0x0C, 0x10, 0x14, 0x18, 0x1C, 0x18, 0x18, 0x00, 0x04]

/-- R112: whatever admissible IV_LAYOUT the hardware has, the layout step changes R only, changes no logical word
outside the two sets, and leaves in each directly written word a loaded word that does not depend on the register. -/
def Obligations.IvLayoutTouchesOnlyItsWords : Prop :=
  ∀ (p : Config.Params) (iv : IvMaterial) (e : Engine),
    (e.applyIvLayout p iv = { e with reg := (e.applyIvLayout p iv).reg }) ∧
    (∀ i < 32, i ∉ [8, 9, 10, 11, 24, 25, 26, 27, 4, 5, 12, 13, 16, 17, 18, 19, 28, 29] →
      (e.applyIvLayout p iv).wordAt i = e.wordAt i) ∧
    (∀ w ∈ [8, 9, 10, 11, 24, 25, 26, 27], ∃ j : Fin 4, ∀ x : Engine,
      (x.applyIvLayout p iv).wordAt w = wordLoad p.wordLoad iv j)

/-- R118 (which the spec marks as derived): for every key, all IVs v1 and v2, and every sequence of ROUND and XORB
commands between them, the engine after `LDKEY k; LDIV v1; ..; LDIV v2` equals, field for field, the engine after
`LDKEY k; LDIV v2` from reset. -/
def Obligations.RekeyEquivalence : Prop :=
  ∀ (key : KeyMaterial) (v1 v2 : IvMaterial) (commands : List (Option Byte)) (s : State), ∃ t u : State,
    execAll ([.ldkey key.toList, .ldiv v1.toList] ++ commands.map streamCommand ++ [.ldiv v2.toList]) s = .next t ∧
    execAll [.ldkey key.toList, .ldiv v2.toList]
      { State.reset with engine := { Engine.reset with rom := s.engine.rom } } = .next u ∧
    t.engine = u.engine

/-! The update network (spec/43_update_network.md). -/

/-- R125: the six layers are the canonical six-call sequence. -/
def Obligations.CanonicalCallsAreTheNetwork : Prop :=
  ∀ (p : Config.Params) (rom : Rom) (x : Six), canonicalCalls.foldl (runCall p rom) x = network p rom x

/-- R125, R132 (the spec marks this clause as derived): within a call the three assignments may be done in any order.
-/
def Obligations.CallOrderIsImmaterial : Prop :=
  ∀ (p : Config.Params) (rom : Rom) (x : Six), ∀ call ∈ canonicalCalls, ∀ pairs : List Pair,
    pairs.Perm call → runCall p rom x pairs = runCall p rom x call

/-- R126 to R131: each layer, assignment by assignment, and the rules' running example (the last four under ROM_T and
the default SBOX_SEL). -/
def Obligations.LayersAsStated : Prop :=
  (∀ a b c d e f : Word,
    layer1 ⟨a, b, c, d, e, f⟩ = ⟨a, b ^^^ a, c, d ^^^ c, e, f ^^^ e⟩ ∧
    layer2 ⟨a, b, c, d, e, f⟩ = ⟨a + f, b, c + b, d, e + d, f⟩ ∧
    layer5 ⟨a, b, c, d, e, f⟩ = ⟨a, b + e, c, d + a, e, f + c⟩ ∧
    layer6 ⟨a, b, c, d, e, f⟩ = ⟨a ^^^ f, b, c ^^^ b, d, e ^^^ d, f⟩ ∧
    ∀ (p : Config.Params) (rom : Rom),
      layer3 p rom ⟨a, b, c, d, e, f⟩ = ⟨a, b ^^^ sbox p rom .g3 e, c, d ^^^ sbox p rom .g1 a, e, f ^^^ sbox p rom .g2 c⟩ ∧
      layer4 p rom ⟨a, b, c, d, e, f⟩ = ⟨a ^^^ sbox p rom .h1 b, b, c ^^^ sbox p rom .h2 d, d, e ^^^ sbox p rom .h3 f, f⟩) ∧
  layer1 ⟨1, 2, 3, 4, 5, 6⟩ = ⟨1, 3, 3, 7, 5, 3⟩ ∧
  layer2 ⟨1, 3, 3, 7, 5, 3⟩ = ⟨4, 3, 6, 7, 0xC, 3⟩ ∧
  (0xFFFFFFFF : Word) + 0xFFFFFFFF = 0xFFFFFFFE ∧ (0xFFFFFFFF : Word) + 1 = 0 ∧
  layer3 .default romT ⟨4, 3, 6, 7, 0xC, 3⟩ = ⟨4, 0xA5119BFC, 6, 0x5B58A6F8, 0xC, 0xFE44E196⟩ ∧
  layer4 .default romT ⟨4, 0xA5119BFC, 6, 0x5B58A6F8, 0xC, 0xFE44E196⟩ =
    ⟨0xF3840596, 0xA5119BFC, 0xA243492A, 0x5B58A6F8, 0x6D5488FC, 0xFE44E196⟩ ∧
  layer5 ⟨0xF3840596, 0xA5119BFC, 0xA243492A, 0x5B58A6F8, 0x6D5488FC, 0xFE44E196⟩ =
    ⟨0xF3840596, 0x126624F8, 0xA243492A, 0x4EDCAC8E, 0x6D5488FC, 0xA0882AC0⟩ ∧
  layer6 ⟨0xF3840596, 0x126624F8, 0xA243492A, 0x4EDCAC8E, 0x6D5488FC, 0xA0882AC0⟩ =
    ⟨0x530C2F56, 0x126624F8, 0xB0256DD2, 0x4EDCAC8E, 0x23882472, 0xA0882AC0⟩ ∧
  network .default romT ⟨1, 2, 3, 4, 5, 6⟩ =
    ⟨0x530C2F56, 0x126624F8, 0xB0256DD2, 0x4EDCAC8E, 0x23882472, 0xA0882AC0⟩

/-- R141 (which the spec marks as derived): for every ROM content and every admissible SBOX_SEL, a word of four equal
bytes v goes through every s-box to `S1(v) xor S2(v)`. -/
def Obligations.EqualBytesGiveBothTables : Prop :=
  ∀ (p : Config.Params) (rom : Rom) (box : Config.BoxName) (v : Byte) (x : Word),
    (∀ q : Fin 4, byteOf q x = v) → sbox p rom box x = rom.rom1[v.toNat]'v.isLt ^^^ rom.rom2[v.toNat]'v.isLt

/-- R134 to R139: the six s-boxes under the default SBOX_SEL (the spec's own choice, 92_eei_decisions.md D13), with
the rules' examples under ROM_T. -/
def Obligations.DefaultBoxesAsStated : Prop :=
  (∀ (rom : Rom) (x : Word),
    let t1 (v : Byte) : Word := rom.rom1[v.toNat]'v.isLt
    let t2 (v : Byte) : Word := rom.rom2[v.toNat]'v.isLt
    let x0 : Byte := x.extractLsb' 0 8
    let x1 : Byte := x.extractLsb' 8 8
    let x2 : Byte := x.extractLsb' 16 8
    let x3 : Byte := x.extractLsb' 24 8
    sbox .default rom .g1 x = t2 x0 ^^^ t1 x1 ^^^ t1 x2 ^^^ t1 x3 ∧
    sbox .default rom .g2 x = t1 x0 ^^^ t2 x1 ^^^ t1 x2 ^^^ t1 x3 ∧
    sbox .default rom .g3 x = t1 x0 ^^^ t1 x1 ^^^ t2 x2 ^^^ t1 x3 ∧
    sbox .default rom .h1 x = t1 x0 ^^^ t2 x1 ^^^ t2 x2 ^^^ t2 x3 ∧
    sbox .default rom .h2 x = t2 x0 ^^^ t1 x1 ^^^ t2 x2 ^^^ t2 x3 ∧
    sbox .default rom .h3 x = t2 x0 ^^^ t2 x1 ^^^ t1 x2 ^^^ t2 x3) ∧
  sbox .default romT .g1 0x01020304 = 0x5B7AA7FB ∧ sbox .default romT .g2 0x01020304 = 0xCE59EA1F ∧
  sbox .default romT .g3 0x01020304 = 0xEA3E3F7B ∧ sbox .default romT .h1 0x01020304 = 0xA2A5BE33 ∧
  sbox .default romT .h2 0x01020304 = 0x3786F3D7 ∧ sbox .default romT .h3 0x01020304 = 0x13E126B3

/-- R140: there are 24 admissible choices for the three G boxes and 24 for the three H boxes, and the default is one.
-/
def Obligations.AdmissibleSelectionsCounted : Prop :=
  let tables : List Config.Table := [.first, .second]
  let boxes : List Config.BoxSel :=
    tables.flatMap fun a => tables.flatMap fun b => tables.flatMap fun c => tables.map fun d => ⟨a, b, c, d⟩
  let count (t : Config.Table) : Nat :=
    (boxes.flatMap fun x => boxes.flatMap fun y => boxes.filter fun z => Config.oddPositionsRotate t x y z).length
  count .second = 24 ∧ count .first = 24 ∧ Config.SboxSel.default.admissible = true

/-! ROUND and XORB (spec/44_round_and_stream.md). -/

/-- R146, R147, R150: ROUND in phase PRIMED: the six taps with the counter before its increment, F, CTR + 1, OFF + 2,
b and c fed back to logical 0 and 1 after the rotation, the block of a then e most significant byte first, which is
also the response; everything else is unchanged. -/
def Obligations.RoundRunsOneRound : Prop :=
  ∀ s : State, s.engine.phase = .primed →
    let e := s.engine
    let o := network Config.params e.rom
      ⟨e.wordAt 0, e.wordAt 9, e.wordAt 16, e.wordAt 19,
       e.wordAt 30 ^^^ e.ctr.extractLsb' 32 32, e.wordAt 31 ^^^ e.ctr.extractLsb' 0 32⟩
    let block : Vector Byte 8 :=
      #v[o.a.extractLsb' 24 8, o.a.extractLsb' 16 8, o.a.extractLsb' 8 8, o.a.extractLsb' 0 8,
         o.e.extractLsb' 24 8, o.e.extractLsb' 16 8, o.e.extractLsb' 8 8, o.e.extractLsb' 0 8]
    exec .round s = .next
      { engine :=
          { e with
            reg := (e.reg.set (physIndex (e.off + 2) 0) o.b).set (physIndex (e.off + 2) 1) o.c
            off := e.off + 2
            ctr := e.ctr + 1
            ksBuf := block
            ksPos := 0 }
        rx := s.rx
        tx := s.tx ++ [0x00 :: block.toList] }

/-- R177: outside phase PRIMED, ROUND and XORB answer 0x05 and change nothing. -/
def Obligations.KeystreamNeedsAPrimedSession : Prop :=
  ∀ (s : State) (data : Byte), s.engine.phase ≠ .primed →
    exec .round s = .next { s with tx := s.tx ++ [[0x05]] } ∧
    exec (.xorb data) s = .next { s with tx := s.tx ++ [[0x05]] }

/-- R148, R93 (which the spec marks as derived): after a round logical 0 and 1 are the b and c fed back, logical 2 to
29 are the old 4 to 31, logical 30 and 31 are the old 0 and 1; so the round after reads b at tap a, and the round
after that reads b and c at logical 30 and 31. -/
def Obligations.RoundWindowMovesByTwo : Prop :=
  ∀ (p : Config.Params) (e : Engine),
    let o := network p e.rom e.roundTaps
    (e.regen p).wordAt 0 = o.b ∧ (e.regen p).wordAt 1 = o.c ∧
    (∀ i, 2 ≤ i → i < 30 → (e.regen p).wordAt i = e.wordAt (i + 2)) ∧
    (e.regen p).wordAt 30 = e.wordAt 0 ∧ (e.regen p).wordAt 31 = e.wordAt 1 ∧
    (e.regen p).roundTaps.a = o.b ∧
    ((e.regen p).regen p).wordAt 30 = o.b ∧ ((e.regen p).regen p).wordAt 31 = o.c

/-- R201 (which the spec marks as derived), R23, R92: n rounds add n to CTR and 2n to OFF, both wrapping: sixteen
rounds leave OFF where it was, and 2^64 rounds leave CTR where it was. -/
def Obligations.RoundsAreCounted : Prop :=
  ∀ (p : Config.Params) (e : Engine),
    (∀ n, (e.rounds p n).ctr = e.ctr + BitVec.ofNat 64 n ∧ (e.rounds p n).off = e.off + BitVec.ofNat 5 (2 * n)) ∧
    (e.rounds p 16).off = e.off ∧ (e.rounds p (2 ^ 64)).ctr = e.ctr

/-- R152, R153: XORB in phase PRIMED, in the cursor mode the hardware has: SEQUENTIAL uses byte KSPOS of the block,
after one round if the block is exhausted; FIRST_BYTE runs a round and uses its first byte. -/
def Obligations.XorbServesOneByte : Prop :=
  ∀ (s : State) (data : Byte), s.engine.phase = .primed →
    let e := s.engine
    let r := e.regen Config.params
    let fresh : State :=
      { engine := { r with ksPos := 1 }, rx := s.rx, tx := s.tx ++ [[(0x00 : Byte), data ^^^ r.ksBuf[0]]] }
    exec (.xorb data) s = .next
      (match Config.params.cursorMode with
        | .firstByte => fresh
        | .sequential =>
          if h : e.ksPos.val < 8 then
            { engine := { e with ksPos := ⟨e.ksPos.val + 1, Nat.succ_lt_succ h⟩ }
              rx := s.rx
              tx := s.tx ++ [[(0x00 : Byte), data ^^^ e.ksBuf[e.ksPos.val]]] }
          else fresh)

/-- R154 (which the spec marks as derived): in SEQUENTIAL mode, from an exhausted block (as LDIV leaves it), the i-th
of any number of XORB commands returns `DATA_i xor ks[i]` with `ks[8n + k] = B_n[k]`, and a round is run only when a
byte of a new block is needed. -/
def Obligations.KeystreamIsTheBlocksInOrder : Prop :=
  ∀ (p : Config.Params) (data : List Byte) (s : State), p.cursorMode = .sequential → s.engine.phase = .primed →
    s.engine.ksPos = 8 →
    ∃ t : State, xorbAllWith p data s = .next t ∧
      t.tx = s.tx ++ data.mapIdx (fun i d => [(0x00 : Byte), d ^^^ s.engine.keystream p i]) ∧
      t.engine.ctr = s.engine.ctr + BitVec.ofNat 64 ((data.length + 7) / 8)

/-- R150, R197 (which the spec marks as derived): in SEQUENTIAL mode up to eight XORB commands after a ROUND use the
block that the ROUND returned, from its first byte on, and run no round. -/
def Obligations.RoundRebasesTheCursor : Prop :=
  ∀ (p : Config.Params) (data : List Byte) (s t : State), p.cursorMode = .sequential → s.engine.phase = .primed →
    data.length ≤ 8 → execRoundWith p s = .next t →
    ∃ (u : State) (block : List Byte), t.tx = s.tx ++ [0x00 :: block] ∧ xorbAllWith p data t = .next u ∧
      u.tx = t.tx ++ List.zipWith (fun d k => [(0x00 : Byte), d ^^^ k]) data block ∧
      u.engine = { t.engine with ksPos := Fin.ofNat 9 data.length }

/-- R153: in FIRST_BYTE mode every XORB runs one round, whatever KSPOS is, and the i-th returns its data XORed with
the first byte of block i. -/
def Obligations.FirstByteModeSpendsARoundPerByte : Prop :=
  ∀ (p : Config.Params) (data : List Byte) (s : State), p.cursorMode = .firstByte → s.engine.phase = .primed →
    ∃ t : State, xorbAllWith p data s = .next t ∧
      t.tx = s.tx ++ data.mapIdx (fun i d => [(0x00 : Byte), d ^^^ (s.engine.block p i)[0]]) ∧
      (data ≠ [] → t.engine = { s.engine.rounds p data.length with ksPos := 1 })

/-- R155 (which the spec marks as derived): from the same engine state, feeding the result bytes of a run of ROUND and
XORB commands back as the data of a second run, with the ROUNDs at the same places, returns the original data, in both
cursor modes, and leaves the same engine. -/
def Obligations.StreamSymmetry : Prop :=
  ∀ (commands : List (Option Byte)) (s t : State), s.engine.phase = .primed → t.engine = s.engine →
    ∃ (s' t' : State) (responses : List (List Byte)),
      execAll (commands.map streamCommand) s = .next s' ∧ s'.tx = s.tx ++ responses ∧
      (feedBack commands responses).length = commands.length ∧
      execAll ((feedBack commands responses).map streamCommand) t = .next t' ∧
      t'.tx = t.tx ++ recovered commands responses ∧ t'.engine = s'.engine

/-! Errors (spec/60_exceptions.md). -/

/-- R166 (which the spec marks as derived), R175, R75: the status of every command in every phase; on OK the number of
result bytes and the phase after; otherwise the status byte alone and no change to the engine. That exec answers a
payload of more than 255 bytes, which no packet carries, as any other wrong length is the model's choice
(notes/assumptions/3.md). -/
def Obligations.StatusOfEveryCommandInEveryPhase : Prop :=
  ∀ (i : Instr) (s : State), ∃ (t : State) (bytes : List Byte),
    exec i s = .next t ∧ t.rx = s.rx ∧
    t.tx = s.tx ++ [(expectedStatus i s.engine.phase).code :: bytes] ∧
    (expectedStatus i s.engine.phase = .ok →
      bytes.length = resultLength i ∧ t.engine.phase = phaseAfterSuccess i) ∧
    (expectedStatus i s.engine.phase ≠ .ok → bytes = [] ∧ t.engine = s.engine)

/-- R176: a step whose response has a status other than 0x00 leaves the engine exactly as it was, and the response is
the single status byte. -/
def Obligations.ErrorsChangeNothing : Prop :=
  ∀ (s t : State) (status : Byte) (bytes : List Byte), step s = .next t → t.tx = s.tx ++ [status :: bytes] →
    status ≠ 0x00 → t.engine = s.engine ∧ bytes = []

/-- R174: no transition produces status 0x03. -/
def Obligations.LengthMismatchIsNeverSent : Prop :=
  ∀ (s t : State), step s = .next t → ∀ response ∈ t.tx, response ∉ s.tx → response.head? ≠ some 0x03

/-! The circular register (spec/40_nlfsr_addressing.md). -/

/-- R90, R91: `x[i] <- v` writes exactly one cell of R and nothing else: the logical words that read v afterwards are
those whose index differs from i by a multiple of 32. -/
def Obligations.LogicalWriteThenRead : Prop :=
  ∀ (e : Engine) (i j : Nat) (v : Word),
    (e.setWordAt i v).wordAt j = (if j % 32 = i % 32 then v else e.wordAt j) ∧
    e.setWordAt i v = { e with reg := e.reg.set ((e.off.toNat + i) % 32) v (Nat.mod_lt _ (by decide)) } ∧
    e.setWordAt (i + 32) v = e.setWordAt i v ∧
    ({ e with off := 2 }.setWordAt 1 0xAABBCCDD).reg = e.reg.set 3 0xAABBCCDD

/-- R93 (which the spec marks as derived): after ROTATE k the logical word i is the word that was logical word i + k,
and no cell of R changed; rotating by 28 and by 2 moves the window as the rule says. -/
def Obligations.RotationMovesTheWindow : Prop :=
  ∀ (e : Engine) (k : BitVec 5) (i : Nat),
    (e.rotate k).wordAt i = e.wordAt (i + k.toNat) ∧ (e.rotate k).reg = e.reg ∧
    (e.rotate 28).wordAt (i + 4) = e.wordAt i ∧ (e.rotate 2).wordAt (i + 30) = e.wordAt i ∧
    (e.wordAt (i + 32) = e.wordAt i)

/-- R90, R92: the logical read and the rotation, with the rules' corner cases. -/
def Obligations.AccessorCornerCases : Prop :=
  ∀ e : Engine,
    (∀ i, e.wordAt i = e.reg[(e.off.toNat + i) % 32]'(Nat.mod_lt _ (by decide))) ∧ e.wordAt 32 = e.wordAt 0 ∧
    (∀ k : BitVec 5, e.rotate k = { e with off := BitVec.ofNat 5 ((e.off.toNat + k.toNat) % 32) }) ∧
    ({ e with off := 30 }.wordAt 5 = e.reg[3]) ∧ ({ e with off := 28 }.wordAt 20 = e.reg[16]) ∧
    ({ e with off := 31 }.wordAt 31 = e.reg[30]) ∧
    ({ e with off := 30 }.rotate 2).off = 0 ∧ ({ e with off := 31 }.rotate 28).off = 27 ∧
    ({ e with off := 0 }.rotate 28).off = 28 ∧ ({ e with off := 4 }.rotate 28).off = 0 ∧
    ((fun x : Engine => x.rotate 28)^[16] e = e) ∧ ((fun x : Engine => x.rotate 2)^[16] e = e)

/-! Sessions (spec/30_encoding.md R84, spec/70_reset_and_hazards.md). -/

/-- R84, R175, and R199, which the spec marks as derived: NEWSESSION with a key of the wrong length gets the one response
0x01 and leaves the old session as it was; with a good key and an IV of the wrong length it gets 0x00 and 0x02 and
leaves the new key loaded. The rules write sixteen bytes of each; that the lists may here have any length, and that one
of more than 255 bytes, which no packet carries, is answered as any other wrong length, is the model's choice
(notes/assumptions/15.md, DESIGN CHOICE). -/
def Obligations.NewSessionFailures : Prop :=
  ∀ (key iv : List Byte) (s : State),
    (key.length ≠ 16 → (Pseudo.newSession key iv).run s = .next { s with tx := s.tx ++ [[0x01]] }) ∧
    (key.length = 16 → iv.length ≠ 16 → ∃ t : State,
      (Pseudo.newSession key iv).run s = .next t ∧ t.tx = s.tx ++ [[0x00], [0x02]] ∧
      exec (.ldkey key) s = .next { t with tx := s.tx ++ [[0x00]] } ∧ t.engine.phase = .keyed)

/-- R192, R194, and R196, which the spec marks as derived: NEWSESSION with a key and an IV of 16 bytes succeeds from every state, and the engine it leaves
depends on nothing of the state before but the ROM. -/
def Obligations.NewSessionIsDeterministic : Prop :=
  ∀ (key : KeyMaterial) (iv : IvMaterial) (s t : State), s.engine.rom = t.engine.rom → ∃ s' t' : State,
    (Pseudo.newSession key.toList iv.toList).run s = .next s' ∧ s'.tx = s.tx ++ [[0x00], [0x00]] ∧
    (Pseudo.newSession key.toList iv.toList).run t = .next t' ∧ t'.tx = t.tx ++ [[0x00], [0x00]] ∧
    s'.engine = t'.engine ∧ s'.engine.phase = .primed ∧ s'.engine.off = 0 ∧ s'.engine.ksPos = 8

/-- R83: a command printed in the spec's notation assembles to that command. What the notation leaves open is the
model's choice (notes/assumptions/14.md). -/
def Obligations.PrintedCommandsAssembleBack : Prop :=
  ∀ i : Instr, i.wellFormed = true → assemble (printInstr i) = some (.command i)

/-- R83: the five examples of the rule, from text to packet bytes. Beside them, lines of the model's own: a comment
after a command, an LDKEY line of two bytes, a REKEY line, and a line that is only a comment. What the rules leave
open of such lines is the model's choice (notes/assumptions/14.md). -/
def Obligations.AssemblerExamples : Prop :=
  assemble ['C', 'L', 'R'] = some (.command .clr) ∧ encode .clr = [0x01, 0x00] ∧
  assemble (['L', 'D', 'K', 'E', 'Y'] ++
      [' ', '0', '0', ' ', '0', '1', ' ', '0', '2', ' ', '0', '3', ' ', '0', '4'] ++
      [' ', '0', '5', ' ', '0', '6', ' ', '0', '7', ' ', '0', '8', ' ', '0', '9'] ++
      [' ', '0', 'A', ' ', '0', 'B', ' ', '0', 'C', ' ', '0', 'D', ' ', '0', 'E'] ++
      [' ', '0', 'F']) =
    some (.command (.ldkey [0x00, 0x01, 0x02, 0x03, 0x04, 0x05, 0x06, 0x07,
      0x08, 0x09, 0x0A, 0x0B, 0x0C, 0x0D, 0x0E, 0x0F])) ∧
  encode (.ldkey [0x00, 0x01, 0x02, 0x03, 0x04, 0x05, 0x06, 0x07,
      0x08, 0x09, 0x0A, 0x0B, 0x0C, 0x0D, 0x0E, 0x0F]) =
    [0x02, 0x10, 0x00, 0x01, 0x02, 0x03, 0x04, 0x05, 0x06, 0x07,
      0x08, 0x09, 0x0A, 0x0B, 0x0C, 0x0D, 0x0E, 0x0F] ∧
  assemble (['L', 'D', 'I', 'V'] ++
      [' ', '1', '0', ' ', '1', '1', ' ', '1', '2', ' ', '1', '3', ' ', '1', '4'] ++
      [' ', '1', '5', ' ', '1', '6', ' ', '1', '7', ' ', '1', '8', ' ', '1', '9'] ++
      [' ', '1', 'A', ' ', '1', 'B', ' ', '1', 'C', ' ', '1', 'D', ' ', '1', 'E'] ++
      [' ', '1', 'F']) =
    some (.command (.ldiv [0x10, 0x11, 0x12, 0x13, 0x14, 0x15, 0x16, 0x17,
      0x18, 0x19, 0x1A, 0x1B, 0x1C, 0x1D, 0x1E, 0x1F])) ∧
  encode (.ldiv [0x10, 0x11, 0x12, 0x13, 0x14, 0x15, 0x16, 0x17,
      0x18, 0x19, 0x1A, 0x1B, 0x1C, 0x1D, 0x1E, 0x1F]) =
    [0x03, 0x10, 0x10, 0x11, 0x12, 0x13, 0x14, 0x15, 0x16, 0x17,
      0x18, 0x19, 0x1A, 0x1B, 0x1C, 0x1D, 0x1E, 0x1F] ∧
  assemble ['R', 'O', 'U', 'N', 'D'] = some (.command .round) ∧ encode .round = [0x04, 0x00] ∧
  assemble ['X', 'O', 'R', 'B', ' ', '4', '8'] = some (.command (.xorb 0x48)) ∧ encode (.xorb 0x48) = [0x05, 0x48] ∧
  assemble ['R', 'O', 'U', 'N', 'D', ' ', ';', ' ', 'x'] = some (.command .round) ∧
  assemble ['L', 'D', 'K', 'E', 'Y', ' ', '0', 'A', ' ', 'F', 'F'] = some (.command (.ldkey [0x0A, 0xFF])) ∧
  encode (.ldkey [0x0A, 0xFF]) = [0x02, 0x02, 0x0A, 0xFF] ∧
  assemble ['R', 'E', 'K', 'E', 'Y', ' ', '1', '0'] = some (.pseudo (.rekey [0x10])) ∧
  assemble [';', 'X'] = some .blank

/-- R38: a step of one engine of several is that engine's own step, and every other engine is as it was. That
several engines are a list of which one takes a step at a time is the model's (notes/assumptions/12.md, DEDUCED), and so
is it that a wait is a step (notes/assumptions/2.md). For a k that no engine has the statement says that no engine
changes, which is the model's choice (notes/assumptions/12.md, DESIGN CHOICE). -/
def Obligations.EnginesAreIndependent : Prop :=
  ∀ (engines after : List State) (k : Nat), stepEngine k engines = .next after →
    after.length = engines.length ∧ (∀ j, j ≠ k → after[j]? = engines[j]?) ∧
    (∀ s, engines[k]? = some s → ∃ t, step s = .next t ∧ after[k]? = some t)

/-- R193, R62: the host sends nothing while a packet waits for its response; what it sends leaves the engine and the
responses alone; of what it sent, the step that follows either still waits for the rest of the packet or consumes all
and answers once; and a host that waits for nothing may send any whole packet. That the wait is a step to the same state
is the model's choice (notes/assumptions/2.md). -/
def Obligations.HostSendsOnePacketAtATime : Prop :=
  ∀ (s : State) (bytes : List Byte),
    ((∃ p rest, decode s.rx = .packet p rest) → s.hostSend bytes = none) ∧
    (∀ t, s.hostSend bytes = some t →
      t.engine = s.engine ∧ t.tx = s.tx ∧ t.rx = s.rx ++ bytes ∧
      ∀ u, step t = .next u →
        (u = t ∧ ∃ m, decode t.rx = .incomplete m) ∨ (u.rx = [] ∧ ∃ response, u.tx = s.tx ++ [response])) ∧
    (∀ p : Packet, p.wellFormed = true → s.rx = [] →
      s.hostSend (encodePacket p) = some { s with rx := encodePacket p })
end

