-- ==== Sys2Proof/Laws/State.lean ====
section
/-! SUPPORT. One lemma per field per update: what each named operation leaves in each field. -/

namespace Sys2Proof.Machine

/-! `Engine.setWordAt`. -/

@[simp] theorem Engine.setWordAt_reg (e : Engine) (i : Nat) (v : Word) :
    (e.setWordAt i v).reg = e.reg.set (physIndex e.off i) v := rfl

@[simp] theorem Engine.setWordAt_off (e : Engine) (i : Nat) (v : Word) :
    (e.setWordAt i v).off = e.off := rfl

@[simp] theorem Engine.setWordAt_ctr (e : Engine) (i : Nat) (v : Word) :
    (e.setWordAt i v).ctr = e.ctr := rfl

@[simp] theorem Engine.setWordAt_keySize (e : Engine) (i : Nat) (v : Word) :
    (e.setWordAt i v).keySize = e.keySize := rfl

@[simp] theorem Engine.setWordAt_fresh (e : Engine) (i : Nat) (v : Word) :
    (e.setWordAt i v).fresh = e.fresh := rfl

@[simp] theorem Engine.setWordAt_snap (e : Engine) (i : Nat) (v : Word) :
    (e.setWordAt i v).snap = e.snap := rfl

@[simp] theorem Engine.setWordAt_ksBuf (e : Engine) (i : Nat) (v : Word) :
    (e.setWordAt i v).ksBuf = e.ksBuf := rfl

@[simp] theorem Engine.setWordAt_ksPos (e : Engine) (i : Nat) (v : Word) :
    (e.setWordAt i v).ksPos = e.ksPos := rfl

@[simp] theorem Engine.setWordAt_phase (e : Engine) (i : Nat) (v : Word) :
    (e.setWordAt i v).phase = e.phase := rfl

@[simp] theorem Engine.setWordAt_rom (e : Engine) (i : Nat) (v : Word) :
    (e.setWordAt i v).rom = e.rom := rfl

/-! `Engine.rotate`. -/

@[simp] theorem Engine.rotate_reg (e : Engine) (k : BitVec offBits) :
    (e.rotate k).reg = e.reg := rfl

@[simp] theorem Engine.rotate_off (e : Engine) (k : BitVec offBits) :
    (e.rotate k).off = e.off + k := rfl

@[simp] theorem Engine.rotate_ctr (e : Engine) (k : BitVec offBits) :
    (e.rotate k).ctr = e.ctr := rfl

@[simp] theorem Engine.rotate_keySize (e : Engine) (k : BitVec offBits) :
    (e.rotate k).keySize = e.keySize := rfl

@[simp] theorem Engine.rotate_fresh (e : Engine) (k : BitVec offBits) :
    (e.rotate k).fresh = e.fresh := rfl

@[simp] theorem Engine.rotate_snap (e : Engine) (k : BitVec offBits) :
    (e.rotate k).snap = e.snap := rfl

@[simp] theorem Engine.rotate_ksBuf (e : Engine) (k : BitVec offBits) :
    (e.rotate k).ksBuf = e.ksBuf := rfl

@[simp] theorem Engine.rotate_ksPos (e : Engine) (k : BitVec offBits) :
    (e.rotate k).ksPos = e.ksPos := rfl

@[simp] theorem Engine.rotate_phase (e : Engine) (k : BitVec offBits) :
    (e.rotate k).phase = e.phase := rfl

@[simp] theorem Engine.rotate_rom (e : Engine) (k : BitVec offBits) :
    (e.rotate k).rom = e.rom := rfl

/-! `Engine.clearRegister`. -/

@[simp] theorem Engine.clearRegister_reg (e : Engine) :
    (e.clearRegister).reg = Vector.replicate 32 0 := rfl

@[simp] theorem Engine.clearRegister_off (e : Engine) :
    (e.clearRegister).off = 0 := rfl

@[simp] theorem Engine.clearRegister_ctr (e : Engine) :
    (e.clearRegister).ctr = e.ctr := rfl

@[simp] theorem Engine.clearRegister_keySize (e : Engine) :
    (e.clearRegister).keySize = e.keySize := rfl

@[simp] theorem Engine.clearRegister_fresh (e : Engine) :
    (e.clearRegister).fresh = e.fresh := rfl

@[simp] theorem Engine.clearRegister_snap (e : Engine) :
    (e.clearRegister).snap = e.snap := rfl

@[simp] theorem Engine.clearRegister_ksBuf (e : Engine) :
    (e.clearRegister).ksBuf = e.ksBuf := rfl

@[simp] theorem Engine.clearRegister_ksPos (e : Engine) :
    (e.clearRegister).ksPos = e.ksPos := rfl

@[simp] theorem Engine.clearRegister_phase (e : Engine) :
    (e.clearRegister).phase = e.phase := rfl

@[simp] theorem Engine.clearRegister_rom (e : Engine) :
    (e.clearRegister).rom = e.rom := rfl

/-! `Engine.takeSnapshot`. -/

@[simp] theorem Engine.takeSnapshot_reg (e : Engine) :
    (e.takeSnapshot).reg = e.reg := rfl

@[simp] theorem Engine.takeSnapshot_off (e : Engine) :
    (e.takeSnapshot).off = e.off := rfl

@[simp] theorem Engine.takeSnapshot_ctr (e : Engine) :
    (e.takeSnapshot).ctr = e.ctr := rfl

@[simp] theorem Engine.takeSnapshot_keySize (e : Engine) :
    (e.takeSnapshot).keySize = e.keySize := rfl

@[simp] theorem Engine.takeSnapshot_fresh (e : Engine) :
    (e.takeSnapshot).fresh = e.fresh := rfl

@[simp] theorem Engine.takeSnapshot_snap (e : Engine) :
    (e.takeSnapshot).snap = e.reg := rfl

@[simp] theorem Engine.takeSnapshot_ksBuf (e : Engine) :
    (e.takeSnapshot).ksBuf = e.ksBuf := rfl

@[simp] theorem Engine.takeSnapshot_ksPos (e : Engine) :
    (e.takeSnapshot).ksPos = e.ksPos := rfl

@[simp] theorem Engine.takeSnapshot_phase (e : Engine) :
    (e.takeSnapshot).phase = e.phase := rfl

@[simp] theorem Engine.takeSnapshot_rom (e : Engine) :
    (e.takeSnapshot).rom = e.rom := rfl

/-! `Engine.restore`. -/

@[simp] theorem Engine.restore_reg (e : Engine) :
    (e.restore).reg = e.snap := rfl

@[simp] theorem Engine.restore_off (e : Engine) :
    (e.restore).off = 0 := rfl

@[simp] theorem Engine.restore_ctr (e : Engine) :
    (e.restore).ctr = e.ctr := rfl

@[simp] theorem Engine.restore_keySize (e : Engine) :
    (e.restore).keySize = e.keySize := rfl

@[simp] theorem Engine.restore_fresh (e : Engine) :
    (e.restore).fresh = e.fresh := rfl

@[simp] theorem Engine.restore_snap (e : Engine) :
    (e.restore).snap = e.snap := rfl

@[simp] theorem Engine.restore_ksBuf (e : Engine) :
    (e.restore).ksBuf = e.ksBuf := rfl

@[simp] theorem Engine.restore_ksPos (e : Engine) :
    (e.restore).ksPos = e.ksPos := rfl

@[simp] theorem Engine.restore_phase (e : Engine) :
    (e.restore).phase = e.phase := rfl

@[simp] theorem Engine.restore_rom (e : Engine) :
    (e.restore).rom = e.rom := rfl

/-! `Engine.clearSnapshot`. -/

@[simp] theorem Engine.clearSnapshot_reg (e : Engine) :
    (e.clearSnapshot).reg = e.reg := rfl

@[simp] theorem Engine.clearSnapshot_off (e : Engine) :
    (e.clearSnapshot).off = e.off := rfl

@[simp] theorem Engine.clearSnapshot_ctr (e : Engine) :
    (e.clearSnapshot).ctr = e.ctr := rfl

@[simp] theorem Engine.clearSnapshot_keySize (e : Engine) :
    (e.clearSnapshot).keySize = e.keySize := rfl

@[simp] theorem Engine.clearSnapshot_fresh (e : Engine) :
    (e.clearSnapshot).fresh = e.fresh := rfl

@[simp] theorem Engine.clearSnapshot_snap (e : Engine) :
    (e.clearSnapshot).snap = Vector.replicate 32 0 := rfl

@[simp] theorem Engine.clearSnapshot_ksBuf (e : Engine) :
    (e.clearSnapshot).ksBuf = e.ksBuf := rfl

@[simp] theorem Engine.clearSnapshot_ksPos (e : Engine) :
    (e.clearSnapshot).ksPos = e.ksPos := rfl

@[simp] theorem Engine.clearSnapshot_phase (e : Engine) :
    (e.clearSnapshot).phase = e.phase := rfl

@[simp] theorem Engine.clearSnapshot_rom (e : Engine) :
    (e.clearSnapshot).rom = e.rom := rfl

/-! `Engine.dropBlock`. -/

@[simp] theorem Engine.dropBlock_reg (e : Engine) :
    (e.dropBlock).reg = e.reg := rfl

@[simp] theorem Engine.dropBlock_off (e : Engine) :
    (e.dropBlock).off = e.off := rfl

@[simp] theorem Engine.dropBlock_ctr (e : Engine) :
    (e.dropBlock).ctr = e.ctr := rfl

@[simp] theorem Engine.dropBlock_keySize (e : Engine) :
    (e.dropBlock).keySize = e.keySize := rfl

@[simp] theorem Engine.dropBlock_fresh (e : Engine) :
    (e.dropBlock).fresh = e.fresh := rfl

@[simp] theorem Engine.dropBlock_snap (e : Engine) :
    (e.dropBlock).snap = e.snap := rfl

@[simp] theorem Engine.dropBlock_ksBuf (e : Engine) :
    (e.dropBlock).ksBuf = Vector.replicate 8 0 := rfl

@[simp] theorem Engine.dropBlock_ksPos (e : Engine) :
    (e.dropBlock).ksPos = 8 := rfl

@[simp] theorem Engine.dropBlock_phase (e : Engine) :
    (e.dropBlock).phase = e.phase := rfl

@[simp] theorem Engine.dropBlock_rom (e : Engine) :
    (e.dropBlock).rom = e.rom := rfl

/-! `Engine.setCounter`. -/

@[simp] theorem Engine.setCounter_reg (e : Engine) (c : BitVec ctrBits) :
    (e.setCounter c).reg = e.reg := rfl

@[simp] theorem Engine.setCounter_off (e : Engine) (c : BitVec ctrBits) :
    (e.setCounter c).off = e.off := rfl

@[simp] theorem Engine.setCounter_ctr (e : Engine) (c : BitVec ctrBits) :
    (e.setCounter c).ctr = c := rfl

@[simp] theorem Engine.setCounter_keySize (e : Engine) (c : BitVec ctrBits) :
    (e.setCounter c).keySize = e.keySize := rfl

@[simp] theorem Engine.setCounter_fresh (e : Engine) (c : BitVec ctrBits) :
    (e.setCounter c).fresh = e.fresh := rfl

@[simp] theorem Engine.setCounter_snap (e : Engine) (c : BitVec ctrBits) :
    (e.setCounter c).snap = e.snap := rfl

@[simp] theorem Engine.setCounter_ksBuf (e : Engine) (c : BitVec ctrBits) :
    (e.setCounter c).ksBuf = e.ksBuf := rfl

@[simp] theorem Engine.setCounter_ksPos (e : Engine) (c : BitVec ctrBits) :
    (e.setCounter c).ksPos = e.ksPos := rfl

@[simp] theorem Engine.setCounter_phase (e : Engine) (c : BitVec ctrBits) :
    (e.setCounter c).phase = e.phase := rfl

@[simp] theorem Engine.setCounter_rom (e : Engine) (c : BitVec ctrBits) :
    (e.setCounter c).rom = e.rom := rfl

/-! `Engine.loadBlock`. -/

@[simp] theorem Engine.loadBlock_reg (e : Engine) (b : Vector Byte blockBytes) :
    (e.loadBlock b).reg = e.reg := rfl

@[simp] theorem Engine.loadBlock_off (e : Engine) (b : Vector Byte blockBytes) :
    (e.loadBlock b).off = e.off := rfl

@[simp] theorem Engine.loadBlock_ctr (e : Engine) (b : Vector Byte blockBytes) :
    (e.loadBlock b).ctr = e.ctr := rfl

@[simp] theorem Engine.loadBlock_keySize (e : Engine) (b : Vector Byte blockBytes) :
    (e.loadBlock b).keySize = e.keySize := rfl

@[simp] theorem Engine.loadBlock_fresh (e : Engine) (b : Vector Byte blockBytes) :
    (e.loadBlock b).fresh = e.fresh := rfl

@[simp] theorem Engine.loadBlock_snap (e : Engine) (b : Vector Byte blockBytes) :
    (e.loadBlock b).snap = e.snap := rfl

@[simp] theorem Engine.loadBlock_ksBuf (e : Engine) (b : Vector Byte blockBytes) :
    (e.loadBlock b).ksBuf = b := rfl

@[simp] theorem Engine.loadBlock_ksPos (e : Engine) (b : Vector Byte blockBytes) :
    (e.loadBlock b).ksPos = 0 := rfl

@[simp] theorem Engine.loadBlock_phase (e : Engine) (b : Vector Byte blockBytes) :
    (e.loadBlock b).phase = e.phase := rfl

@[simp] theorem Engine.loadBlock_rom (e : Engine) (b : Vector Byte blockBytes) :
    (e.loadBlock b).rom = e.rom := rfl

/-! `Engine.advanceTo`. -/

@[simp] theorem Engine.advanceTo_reg (e : Engine) (k : Fin 8) :
    (e.advanceTo k).reg = e.reg := rfl

@[simp] theorem Engine.advanceTo_off (e : Engine) (k : Fin 8) :
    (e.advanceTo k).off = e.off := rfl

@[simp] theorem Engine.advanceTo_ctr (e : Engine) (k : Fin 8) :
    (e.advanceTo k).ctr = e.ctr := rfl

@[simp] theorem Engine.advanceTo_keySize (e : Engine) (k : Fin 8) :
    (e.advanceTo k).keySize = e.keySize := rfl

@[simp] theorem Engine.advanceTo_fresh (e : Engine) (k : Fin 8) :
    (e.advanceTo k).fresh = e.fresh := rfl

@[simp] theorem Engine.advanceTo_snap (e : Engine) (k : Fin 8) :
    (e.advanceTo k).snap = e.snap := rfl

@[simp] theorem Engine.advanceTo_ksBuf (e : Engine) (k : Fin 8) :
    (e.advanceTo k).ksBuf = e.ksBuf := rfl

@[simp] theorem Engine.advanceTo_ksPos (e : Engine) (k : Fin 8) :
    (e.advanceTo k).ksPos = k.succ := rfl

@[simp] theorem Engine.advanceTo_phase (e : Engine) (k : Fin 8) :
    (e.advanceTo k).phase = e.phase := rfl

@[simp] theorem Engine.advanceTo_rom (e : Engine) (k : Fin 8) :
    (e.advanceTo k).rom = e.rom := rfl

/-! `Engine.markEmpty`. -/

@[simp] theorem Engine.markEmpty_reg (e : Engine) :
    (e.markEmpty).reg = e.reg := rfl

@[simp] theorem Engine.markEmpty_off (e : Engine) :
    (e.markEmpty).off = e.off := rfl

@[simp] theorem Engine.markEmpty_ctr (e : Engine) :
    (e.markEmpty).ctr = e.ctr := rfl

@[simp] theorem Engine.markEmpty_keySize (e : Engine) :
    (e.markEmpty).keySize = 0 := rfl

@[simp] theorem Engine.markEmpty_fresh (e : Engine) :
    (e.markEmpty).fresh = false := rfl

@[simp] theorem Engine.markEmpty_snap (e : Engine) :
    (e.markEmpty).snap = e.snap := rfl

@[simp] theorem Engine.markEmpty_ksBuf (e : Engine) :
    (e.markEmpty).ksBuf = e.ksBuf := rfl

@[simp] theorem Engine.markEmpty_ksPos (e : Engine) :
    (e.markEmpty).ksPos = e.ksPos := rfl

@[simp] theorem Engine.markEmpty_phase (e : Engine) :
    (e.markEmpty).phase = .empty := rfl

@[simp] theorem Engine.markEmpty_rom (e : Engine) :
    (e.markEmpty).rom = e.rom := rfl

/-! `Engine.markKeyed`. -/

@[simp] theorem Engine.markKeyed_reg (e : Engine) :
    (e.markKeyed).reg = e.reg := rfl

@[simp] theorem Engine.markKeyed_off (e : Engine) :
    (e.markKeyed).off = e.off := rfl

@[simp] theorem Engine.markKeyed_ctr (e : Engine) :
    (e.markKeyed).ctr = e.ctr := rfl

@[simp] theorem Engine.markKeyed_keySize (e : Engine) :
    (e.markKeyed).keySize = keySizeBits := rfl

@[simp] theorem Engine.markKeyed_fresh (e : Engine) :
    (e.markKeyed).fresh = true := rfl

@[simp] theorem Engine.markKeyed_snap (e : Engine) :
    (e.markKeyed).snap = e.snap := rfl

@[simp] theorem Engine.markKeyed_ksBuf (e : Engine) :
    (e.markKeyed).ksBuf = e.ksBuf := rfl

@[simp] theorem Engine.markKeyed_ksPos (e : Engine) :
    (e.markKeyed).ksPos = e.ksPos := rfl

@[simp] theorem Engine.markKeyed_phase (e : Engine) :
    (e.markKeyed).phase = .keyed := rfl

@[simp] theorem Engine.markKeyed_rom (e : Engine) :
    (e.markKeyed).rom = e.rom := rfl

/-! `Engine.markPrimed`. -/

@[simp] theorem Engine.markPrimed_reg (e : Engine) :
    (e.markPrimed).reg = e.reg := rfl

@[simp] theorem Engine.markPrimed_off (e : Engine) :
    (e.markPrimed).off = e.off := rfl

@[simp] theorem Engine.markPrimed_ctr (e : Engine) :
    (e.markPrimed).ctr = e.ctr := rfl

@[simp] theorem Engine.markPrimed_keySize (e : Engine) :
    (e.markPrimed).keySize = e.keySize := rfl

@[simp] theorem Engine.markPrimed_fresh (e : Engine) :
    (e.markPrimed).fresh = false := rfl

@[simp] theorem Engine.markPrimed_snap (e : Engine) :
    (e.markPrimed).snap = e.snap := rfl

@[simp] theorem Engine.markPrimed_ksBuf (e : Engine) :
    (e.markPrimed).ksBuf = e.ksBuf := rfl

@[simp] theorem Engine.markPrimed_ksPos (e : Engine) :
    (e.markPrimed).ksPos = e.ksPos := rfl

@[simp] theorem Engine.markPrimed_phase (e : Engine) :
    (e.markPrimed).phase = .primed := rfl

@[simp] theorem Engine.markPrimed_rom (e : Engine) :
    (e.markPrimed).rom = e.rom := rfl

/-! The host interface. -/

@[simp] theorem State.respond_engine (s : State) (st : Status) (bs : List Byte) :
    (s.respond st bs).engine = s.engine := rfl

@[simp] theorem State.respond_rx (s : State) (st : Status) (bs : List Byte) :
    (s.respond st bs).rx = s.rx := rfl

@[simp] theorem State.respond_tx (s : State) (st : Status) (bs : List Byte) :
    (s.respond st bs).tx = s.tx ++ [st.code :: bs] := rfl

end Sys2Proof.Machine
end

