-- ==== Sys2Proof/Laws/Ops.lean ====
section
/-! SUPPORT. For each shared operation, once, everything it can do. -/

namespace Sys2Proof.Machine

/-! The sizes, as numbers. -/

/-- There are as many tables as ROM_TABLES says (00_scope.md R5). -/
theorem Table.all_length : Config.Table.all.length = romTables := rfl

/-- No other table exists. -/
theorem Table.mem_all (t : Config.Table) : t ∈ Config.Table.all := by
  cases t <;> decide

/-- The offset is a number below NWORDS. -/
theorem offset_lt (off : BitVec offBits) : off.toNat < 32 := off.isLt

/-- Adding to the offset wraps at NWORDS. -/
theorem offset_add (off k : BitVec offBits) : (off + k).toNat = (off.toNat + k.toNat) % 32 := rfl

/-! The circular register. -/

theorem physIndex_val (off : BitVec offBits) (i : Nat) : (physIndex off i).val = (off.toNat + i) % 32 := rfl

/-- Two logical indices name the same cell exactly when they differ by a multiple of 32. -/
theorem physIndex_eq_iff (off : BitVec offBits) (i j : Nat) : physIndex off i = physIndex off j ↔ i % 32 = j % 32 := by
  simp only [Fin.ext_iff, physIndex_val]
  omega

/-- Adding to OFF is adding to the logical index. -/
theorem physIndex_add (off k : BitVec offBits) (i : Nat) : physIndex (off + k) i = physIndex off (i + k.toNat) := by
  simp only [Fin.ext_iff, physIndex_val, offset_add]
  omega

/-- What a logical read sees of a register whose cell `q` was written. -/
theorem getElem_set_physIndex (reg : Vector Word nWords) (q r : Fin nWords) (v : Word) :
    (reg.set q v)[r] = if q = r then v else reg[r] := by
  simp only [Fin.getElem_fin, Vector.getElem_set, Fin.ext_iff]

/-- A list of logical writes leaves every field but R. -/
theorem Engine.setWords_frame (e : Engine) (ws : List (Nat × Word)) :
    ∃ reg, e.setWords ws = { e with reg := reg } := by
  induction ws generalizing e with
  | nil => exact ⟨e.reg, rfl⟩
  | cons w ws ih =>
    obtain ⟨reg, h⟩ := ih (e.setWordAt w.1 w.2)
    exact ⟨reg, h⟩

/-! The ends of a command. -/

/-- A command that ends well answers OK and its result bytes. -/
theorem State.finish_eq (s : State) (e : Engine) (bs : List Byte) :
    s.finish e bs = .next { engine := e, rx := s.rx, tx := s.tx ++ [0x00 :: bs] } := rfl

/-- A command that raises changes nothing and answers the status byte alone. -/
theorem State.raise_eq (s : State) (st : Status) :
    s.raise st = .next { s with tx := s.tx ++ [[st.code]] } := rfl

/-- The one state a command that ends well answers. -/
theorem State.finish_eq_next {s t : State} {e : Engine} {bs : List Byte} :
    s.finish e bs = .next t ↔ t = { engine := e, rx := s.rx, tx := s.tx ++ [0x00 :: bs] } := by
  rw [State.finish_eq, Host.Outcome.next.injEq, eq_comm]

/-- The one state a command that raises answers. -/
theorem State.raise_eq_next {s t : State} {st : Status} :
    s.raise st = .next t ↔ t = { s with tx := s.tx ++ [[st.code]] } := by
  rw [State.raise_eq, Host.Outcome.next.injEq, eq_comm]

/-- Every status but OK has a nonzero code. -/
theorem Status.code_eq_zero_iff (st : Status) : st.code = 0x00 ↔ st = .ok := by
  cases st <;> decide

/-- Different statuses have different codes. -/
theorem Status.code_injective {x y : Status} (h : x.code = y.code) : x = y := by
  revert h
  cases x <;> cases y <;> decide

/-! Material. -/

theorem materialOf_toList {n : Nat} (m : Vector Byte n) : materialOf n m.toList = some m := by
  simp only [materialOf, Vector.length_toList, ↓reduceDIte, Option.some.injEq]
  rfl

theorem materialOf_eq_none_iff (n : Nat) (bs : List Byte) : materialOf n bs = none ↔ bs.length ≠ n := by
  simp [materialOf]

/-- The only payloads that are material of `n` bytes are the lists of that length. -/
theorem materialOf_eq_some {n : Nat} {bs : List Byte} {m : Vector Byte n} (h : materialOf n bs = some m) :
    bs = m.toList := by
  unfold materialOf at h
  split at h
  · cases h; rfl
  · cases h

end Sys2Proof.Machine
end

