-- ==== Sys2Proof/Laws/Commands.lean ====
section
/-! SUPPORT. What each command can do, case by case, and what the parts of LDIV and of a round leave alone. -/

namespace Sys2Proof.Machine

/-! The step. -/

/-- One step of a run. -/
theorem core_run_next {M : Host.Core} {s t : M.State} (n : Nat) (h : M.step s = .next t) :
    M.run (n + 1) s = M.run n t := by
  simp only [Host.Core.run, h]

/-- The packet a byte stream begins with is a command or an illegal header; a wait leaves the state as it is. -/
theorem step_cases {s t : State} (h : step s = .next t) :
    (∃ m, decode s.rx = .incomplete m ∧ t = s) ∨
    (∃ i rest, decode s.rx = .packet (.command i) rest ∧ exec i { s with rx := rest } = .next t) ∨
    (∃ why rest, decode s.rx = .packet (.illegal why) rest ∧
      t = { s with rx := rest, tx := s.tx ++ [[0x06]] }) := by
  unfold step serveNext State.fetch at h
  cases hd : decode s.rx with
  | incomplete m =>
    simp only [hd] at h
    exact .inl ⟨m, rfl, by cases h; rfl⟩
  | packet p rest =>
    simp only [hd] at h
    cases p with
    | command i => exact .inr (.inl ⟨i, rest, rfl, h⟩)
    | illegal why =>
      refine .inr (.inr ⟨why, rest, rfl, ?_⟩)
      cases h
      rfl

/-! The host's move. -/

/-- All the host's move can do: append bytes to what the engine has not consumed, when it may. -/
theorem State.hostSend_eq_some_iff {s t : State} {bytes : List Byte} :
    s.hostSend bytes = some t ↔ s.hostMaySend bytes = true ∧ t = { s with rx := s.rx ++ bytes } := by
  unfold State.hostSend
  split
  · simp [*, eq_comm]
  · simp [*]

/-- The host may send exactly when no packet is waiting, and with the bytes at most one whole packet is. -/
theorem State.hostMaySend_iff {s : State} {bytes : List Byte} :
    s.hostMaySend bytes = true ↔
      (∃ m, decode s.rx = .incomplete m) ∧
        ((∃ m, decode (s.rx ++ bytes) = .incomplete m) ∨ ∃ p, decode (s.rx ++ bytes) = .packet p []) := by
  unfold State.hostMaySend
  cases decode s.rx <;> cases decode (s.rx ++ bytes) <;> simp

/-! The commands. -/

theorem exec_clr_eq (s : State) : exec .clr s = s.finish s.engine.clear [] := rfl

theorem exec_ldkey_cases (payload : List Byte) (s : State) :
    (payload.length ≠ 16 ∧ exec (.ldkey payload) s = s.raise .invalidKeySize) ∨
    (∃ key : KeyMaterial, payload = key.toList ∧
      exec (.ldkey payload) s = s.finish (s.engine.loadKey Config.params key) []) := by
  simp only [exec, execLdkey, execLdkeyWith]
  cases h : materialOf keyBytes payload with
  | none => exact .inl ⟨(materialOf_eq_none_iff _ _).mp h, rfl⟩
  | some key => exact .inr ⟨key, materialOf_eq_some h, rfl⟩

theorem exec_ldiv_cases (payload : List Byte) (s : State) :
    (s.engine.phase = .empty ∧ exec (.ldiv payload) s = s.raise .notKeyed) ∨
    (s.engine.phase ≠ .empty ∧ payload.length ≠ 16 ∧ exec (.ldiv payload) s = s.raise .invalidIVSize) ∨
    (s.engine.phase ≠ .empty ∧ ∃ iv : IvMaterial, payload = iv.toList ∧
      exec (.ldiv payload) s = s.finish (s.engine.loadIv Config.params iv) []) := by
  simp only [exec, execLdiv, execLdivWith]
  by_cases hp : s.engine.phase = .empty
  · exact .inl ⟨hp, if_pos hp⟩
  · rw [if_neg hp]
    cases h : materialOf ivBytes payload with
    | none => exact .inr (.inl ⟨hp, (materialOf_eq_none_iff _ _).mp h, rfl⟩)
    | some iv => exact .inr (.inr ⟨hp, iv, materialOf_eq_some h, rfl⟩)

theorem exec_round_cases (s : State) :
    (s.engine.phase ≠ .primed ∧ exec .round s = s.raise .notPrimed) ∨
    (s.engine.phase = .primed ∧
      exec .round s = s.finish (s.engine.regen Config.params) (s.engine.regen Config.params).ksBuf.toList) := by
  simp only [exec, execRound, execRoundWith]
  by_cases hp : s.engine.phase = .primed
  · exact .inr ⟨hp, if_pos hp⟩
  · exact .inl ⟨hp, if_neg hp⟩

theorem exec_xorb_cases (data : Byte) (s : State) :
    (s.engine.phase ≠ .primed ∧ exec (.xorb data) s = s.raise .notPrimed) ∨
    (s.engine.phase = .primed ∧
      exec (.xorb data) s =
        s.finish ((s.engine.supply Config.params).1.advanceTo (s.engine.supply Config.params).2)
          [data ^^^ (s.engine.supply Config.params).1.ksBuf[(s.engine.supply Config.params).2]]) := by
  simp only [exec, execXorb, execXorbWith]
  by_cases hp : s.engine.phase = .primed
  · exact .inr ⟨hp, if_pos hp⟩
  · exact .inl ⟨hp, if_neg hp⟩

/-! The commands, as what they answer: a function of the command and the engine alone. -/

/-- A status, the result bytes, and the engine after. -/
structure Answer where
  status : Status
  bytes : List Byte
  engine : Engine

/-- What each command answers. -/
def answer (i : Instr) (e : Engine) : Answer :=
  match i with
  | .clr => ⟨.ok, [], e.clear⟩
  | .ldkey payload =>
    match materialOf keyBytes payload with
    | none => ⟨.invalidKeySize, [], e⟩
    | some key => ⟨.ok, [], e.loadKey Config.params key⟩
  | .ldiv payload =>
    if e.phase = .empty then ⟨.notKeyed, [], e⟩
    else
      match materialOf ivBytes payload with
      | none => ⟨.invalidIVSize, [], e⟩
      | some iv => ⟨.ok, [], e.loadIv Config.params iv⟩
  | .round =>
    if e.phase = .primed then ⟨.ok, (e.regen Config.params).ksBuf.toList, e.regen Config.params⟩
    else ⟨.notPrimed, [], e⟩
  | .xorb data =>
    if e.phase = .primed then
      ⟨.ok, [data ^^^ (e.supply Config.params).1.ksBuf[(e.supply Config.params).2]],
        (e.supply Config.params).1.advanceTo (e.supply Config.params).2⟩
    else ⟨.notPrimed, [], e⟩

/-- The state an answer leaves: the engine after, and one more response packet. -/
def State.after (s : State) (a : Answer) : State :=
  { engine := a.engine, rx := s.rx, tx := s.tx ++ [a.status.code :: a.bytes] }

/-- Every command answers a next state, and all it does to the state is its answer. -/
theorem exec_eq_answer (i : Instr) (s : State) : exec i s = .next (s.after (answer i s.engine)) := by
  cases i with
  | clr => rfl
  | ldkey payload =>
    simp only [exec, execLdkey, execLdkeyWith, answer]
    cases materialOf keyBytes payload <;> rfl
  | ldiv payload =>
    simp only [exec, execLdiv, execLdivWith, answer]
    split
    · rfl
    · cases materialOf ivBytes payload <;> rfl
  | round =>
    simp only [exec, execRound, execRoundWith, answer]
    split <;> rfl
  | xorb data =>
    simp only [exec, execXorb, execXorbWith, answer]
    split <;> rfl

/-- The byte a XORB uses comes from the block at hand, or from the first byte of a fresh round. -/
theorem Engine.supply_cases (p : Config.Params) (e : Engine) :
    (∃ h : e.ksPos.val < 8, p.cursorMode = .sequential ∧ e.supply p = (e, ⟨e.ksPos.val, h⟩)) ∨
    ((p.cursorMode = .firstByte ∨ e.ksPos = 8) ∧ e.supply p = (e.regen p, 0)) := by
  unfold Engine.supply
  cases hm : p.cursorMode with
  | firstByte => exact .inr ⟨.inl rfl, rfl⟩
  | sequential =>
    by_cases h : e.ksPos.val < 8
    · exact .inl ⟨h, rfl, by simp [h]⟩
    · refine .inr ⟨.inr (by ext; have h8 : ¬e.ksPos.val < 8 := h; have h9 : e.ksPos.val < 9 := e.ksPos.isLt; show e.ksPos.val = 8; omega), by simp [h]⟩

/-! What a round leaves alone. -/

theorem Engine.regen_frame (p : Config.Params) (e : Engine) :
    (e.regen p).keySize = e.keySize ∧ (e.regen p).fresh = e.fresh ∧ (e.regen p).snap = e.snap ∧
      (e.regen p).phase = e.phase ∧ (e.regen p).rom = e.rom := ⟨rfl, rfl, rfl, rfl, rfl⟩

theorem Engine.regen_counters (p : Config.Params) (e : Engine) :
    (e.regen p).ctr = e.ctr + 1 ∧ (e.regen p).off = e.off + 2 ∧ (e.regen p).ksPos = 0 := ⟨rfl, rfl, rfl⟩

/-! What the parts of LDIV leave alone. -/

/-- One layout entry writes R only. -/
theorem Engine.applyIvEntry_frame (p : Config.Params) (iv : IvMaterial) (e : Engine) (x : Config.LayoutEntry) :
    ∃ reg, e.applyIvEntry p iv x = { e with reg := reg } := by
  unfold Engine.applyIvEntry
  cases x.mode <;> exact ⟨_, rfl⟩

/-- The whole layout writes R only. -/
theorem Engine.applyIvLayout_frame (p : Config.Params) (iv : IvMaterial) (e : Engine) :
    ∃ reg, e.applyIvLayout p iv = { e with reg := reg } := by
  unfold Engine.applyIvLayout
  generalize p.ivLayout = l
  induction l generalizing e with
  | nil => exact ⟨e.reg, rfl⟩
  | cons x l ih =>
    obtain ⟨reg, h⟩ := Engine.applyIvEntry_frame p iv e x
    obtain ⟨reg', h'⟩ := ih (e.applyIvEntry p iv x)
    exact ⟨reg', by rw [List.foldl_cons, h', h]⟩

/-- A mixing stage writes R and OFF only. -/
theorem mixStage_frame (p : Config.Params) (s : Engine × Carry) :
    ∃ reg, (mixStage p s).1 = { s.1 with reg := reg, off := s.1.off + 28 } := ⟨_, rfl⟩

/-- The carry words of a stage are the words e and f of the network. -/
theorem mixStage_carry (p : Config.Params) (s : Engine × Carry) :
    (mixStage p s).2 = ⟨(mixOutput p s.1 s.2).e, (mixOutput p s.1 s.2).f⟩ := rfl

/-- Mixing stages write R and OFF only. -/
theorem mixStages_frame (p : Config.Params) (n : Nat) (s : Engine × Carry) :
    ∃ reg off, (mixStages p n s).1 = { s.1 with reg := reg, off := off } := by
  induction n generalizing s with
  | zero => exact ⟨_, _, rfl⟩
  | succ n ih =>
    obtain ⟨reg, h⟩ := mixStage_frame p s
    obtain ⟨reg', off', h'⟩ := ih (mixStage p s)
    exact ⟨reg', off', by rw [mixStages, h', h]⟩

/-- The restore of LDIV, when it runs, and nothing else. -/
theorem Engine.restoreUnlessFresh_cases (e : Engine) :
    (e.fresh = true ∧ e.restoreUnlessFresh = e) ∨ (e.fresh = false ∧ e.restoreUnlessFresh = e.restore) := by
  unfold Engine.restoreUnlessFresh
  cases h : e.fresh <;> simp

/-- The end of LDIV writes CTR, KSBUF, KSPOS, FRESH and PHASE only. -/
theorem Engine.primeWith_eq (m : Engine × Carry) :
    Engine.primeWith m =
      { m.1 with ctr := m.2.e ++ m.2.f, fresh := false, ksBuf := Vector.replicate blockBytes 0, ksPos := 8, phase := .primed } := rfl

/-- LDIV never writes KEYSIZE, SNAP or the ROM. -/
theorem Engine.loadIv_frame (p : Config.Params) (iv : IvMaterial) (e : Engine) :
    ∃ reg off ctr, e.loadIv p iv =
      { e with reg := reg, off := off, ctr := ctr, fresh := false, ksBuf := Vector.replicate blockBytes 0, ksPos := 8,
               phase := .primed } := by
  obtain ⟨reg, h⟩ := Engine.applyIvLayout_frame p iv e.restoreUnlessFresh
  obtain ⟨reg', off', h'⟩ := mixStages_frame p nStages (e.restoreUnlessFresh.applyIvLayout p iv, Carry.initial)
  unfold Engine.loadIv
  rw [Engine.primeWith_eq, Engine.mixIv, h', h]
  obtain ⟨_, hr⟩ | ⟨_, hr⟩ := e.restoreUnlessFresh_cases <;> rw [hr] <;> exact ⟨_, _, _, rfl⟩

/-- What LDIV leaves alone, and the flags and buffers it sets, whatever the mixing does. -/
theorem Engine.loadIv_flags (p : Config.Params) (iv : IvMaterial) (e : Engine) :
    (e.loadIv p iv).fresh = false ∧ (e.loadIv p iv).phase = .primed ∧ (e.loadIv p iv).ksPos = 8 ∧
      (e.loadIv p iv).ksBuf = Vector.replicate blockBytes 0 := ⟨rfl, rfl, rfl, rfl⟩

end Sys2Proof.Machine
end

