-- ==== Sys2Proof/Laws/Encoding.lean ====
section
/-! SUPPORT. Headers as 16-bit numbers, and what a row of the opcode map selects. -/

namespace Sys2Proof

/-- Masking a header masks its two bytes. -/
theorem headerOf_and (op arg m n : Byte) : headerOf op arg &&& headerOf m n = headerOf (op &&& m) (arg &&& n) :=
  BitVec.and_append

/-- Two headers are equal exactly when both bytes are. -/
theorem headerOf_inj (op arg op' arg' : Byte) : headerOf op arg = headerOf op' arg' ↔ op = op' ∧ arg = arg' := by
  constructor
  · intro h
    have h1 := congrArg BitVec.toNat h
    simp only [headerOf, BitVec.toNat_append, ← Nat.shiftLeft_add_eq_or_of_lt arg.isLt,
      ← Nat.shiftLeft_add_eq_or_of_lt arg'.isLt] at h1
    have := arg.isLt
    have := arg'.isLt
    constructor <;> apply BitVec.eq_of_toNat_eq <;> omega
  · rintro ⟨rfl, rfl⟩
    rfl

/-- Every 16-bit number is the header of its two bytes. -/
theorem headerOf_surjective (h : BitVec 16) : ∃ op arg : Byte, h = headerOf op arg :=
  ⟨h.extractLsb' 8 8, h.extractLsb' 0 8, by
    apply BitVec.eq_of_toNat_eq
    rw [headerOf, BitVec.toNat_append, ← Nat.shiftLeft_add_eq_or_of_lt (BitVec.isLt _)]
    have := h.isLt
    simp only [BitVec.extractLsb'_toNat]
    omega⟩

/-- Masking with 0xFF00 keeps OP. -/
theorem selects_by_op (op arg o : Byte) (f : Format) :
    (⟨o, f, headerOf o 0x00, 0xFF00⟩ : OpcodeRow).selects (headerOf op arg) = (op == o) := by
  have h : (0xFF00 : BitVec 16) = headerOf 0xFF 0x00 := rfl
  have hop : op &&& 0xFF#8 = op := BitVec.and_allOnes
  rw [Bool.eq_iff_iff]
  simp [OpcodeRow.selects, h, headerOf_and, headerOf_inj, hop]

/-- Masking with 0xFFFF keeps the whole header. -/
theorem selects_by_header (op arg o : Byte) (f : Format) :
    (⟨o, f, headerOf o 0x00, 0xFFFF⟩ : OpcodeRow).selects (headerOf op arg) = (op == o && arg == 0x00) := by
  have h : (0xFFFF : BitVec 16) = headerOf 0xFF 0xFF := rfl
  have hop : op &&& 0xFF#8 = op := BitVec.and_allOnes
  have harg : arg &&& 0xFF#8 = arg := BitVec.and_allOnes
  rw [Bool.eq_iff_iff]
  simp [OpcodeRow.selects, h, headerOf_and, headerOf_inj, hop, harg]

/-- The decoder on a complete header (30_encoding.md R80). -/
theorem decode_header (op arg : Byte) (rest : List Byte) :
    decode (op :: arg :: rest) =
      if op = opLdkey then takePayload .ldkey arg rest
      else if op = opLdiv then takePayload .ldiv arg rest
      else if op = opClr then takeNoOperand .clr op arg rest
      else if op = opRound then takeNoOperand .round op arg rest
      else if op = opXorb then .packet (.command (.xorb arg)) rest
      else .packet (.illegal (.unknownOpcode op arg)) rest := rfl

/-- What taking a payload can do. -/
theorem takePayload_cases (command : List Byte → Instr) (arg : Byte) (rest : List Byte) :
    (arg.toNat ≤ rest.length ∧ takePayload command arg rest =
      .packet (.command (command (rest.take arg.toNat))) (rest.drop arg.toNat)) ∨
    (rest.length < arg.toNat ∧ takePayload command arg rest = .incomplete .payload) := by
  unfold takePayload
  by_cases h : arg.toNat ≤ rest.length
  · exact .inl ⟨h, if_pos h⟩
  · exact .inr ⟨by omega, if_neg h⟩

/-- What taking a format N header can do. -/
theorem takeNoOperand_cases (command : Instr) (op arg : Byte) (rest : List Byte) :
    (arg = 0x00 ∧ takeNoOperand command op arg rest = .packet (.command command) rest) ∨
    (arg ≠ 0x00 ∧ takeNoOperand command op arg rest = .packet (.illegal (.nonzeroArgument op arg)) rest) := by
  unfold takeNoOperand
  by_cases h : arg = 0x00
  · exact .inl ⟨h, if_pos h⟩
  · exact .inr ⟨h, if_neg h⟩

/-- LEN is the length of a payload that fits. -/
theorem payloadFits_toNat {payload : List Byte} (h : payloadFits payload = true) :
    (BitVec.ofNat 8 payload.length).toNat = payload.length := by
  have : payload.length ≤ 255 := by simpa [payloadFits] using h
  simp only [BitVec.toNat_ofNat]
  omega

end Sys2Proof
end

