-- ==== Sys2Proof/Laws/PerInstr.lean ====
section
/-! SUPPORT. Families of statements with one lemma per command. -/

namespace Sys2Proof.Laws

/-- The packet of a well-formed command is its header, whose bits select the command's row of the opcode map, and its
payload. -/
def EncodesItsRow.Statement (i : Instr) : Prop :=
  i.wellFormed = true →
    ∃ op arg, encode i = op :: arg :: i.payload ∧ i.row ∈ opcodeMap ∧ i.row.selects (headerOf op arg) = true ∧
      payloadLength op arg = i.payload.length

theorem EncodesItsRow.clr : EncodesItsRow.Statement .clr := fun _ => ⟨opClr, 0x00, by decide⟩

theorem EncodesItsRow.ldkey (payload : List Byte) : EncodesItsRow.Statement (.ldkey payload) := fun h =>
  ⟨opLdkey, BitVec.ofNat 8 payload.length, rfl, by simp [Instr.row, opcodeMap], selects_by_op opLdkey _ opLdkey .l,
    (if_pos (by decide)).trans (payloadFits_toNat h)⟩

theorem EncodesItsRow.ldiv (payload : List Byte) : EncodesItsRow.Statement (.ldiv payload) := fun h =>
  ⟨opLdiv, BitVec.ofNat 8 payload.length, rfl, by simp [Instr.row, opcodeMap], selects_by_op opLdiv _ opLdiv .l,
    (if_pos (by decide)).trans (payloadFits_toNat h)⟩

theorem EncodesItsRow.round : EncodesItsRow.Statement .round := fun _ => ⟨opRound, 0x00, by decide⟩

theorem EncodesItsRow.xorb (data : Byte) : EncodesItsRow.Statement (.xorb data) := fun _ =>
  ⟨opXorb, data, rfl, by simp [Instr.row, opcodeMap], selects_by_op opXorb _ opXorb .d,
    by simp [payloadLength, Instr.payload, opXorb, opLdkey, opLdiv]⟩

end Sys2Proof.Laws
end

