-- ==== Sys2Proof/Tests/Slice0.lean ====
section
/-! SUPPORT. Small tests. Expected values are the spec's (95_test_vectors.md, 96_test_vectors_derived.md) or worked out by
hand from its rules. The second half gives, for every statement with hypotheses, concrete values that meet them. -/

namespace Sys2Proof.Tests

open Sys2Proof.Machine

/-! Well-formedness: one ill-formed command for each check. -/

theorem test_ldkey_payload_too_long : (Instr.ldkey (List.replicate 256 0)).wellFormed = false := by decide +kernel
theorem test_ldiv_payload_too_long : (Instr.ldiv (List.replicate 256 0)).wellFormed = false := by decide +kernel
theorem test_ldkey_longest_payload : (Instr.ldkey (List.replicate 255 0)).wellFormed = true := by decide +kernel
theorem test_known_opcode_is_not_unknown : (IllegalHeader.unknownOpcode 0x05 0x00).wellFormed = false := by decide
theorem test_zero_argument_is_legal : (IllegalHeader.nonzeroArgument 0x04 0x00).wellFormed = false := by decide

/-! Decoding: a packet of each command written out from the opcode map (30_encoding.md R74). -/

theorem test_decode_clr : decode [0b00000001, 0b00000000, 0x02] = .packet (.command .clr) [0x02] := by decide
theorem test_decode_ldkey : decode [0b00000010, 0b00000011, 0x0A, 0x0B, 0x0C, 0x01] =
    .packet (.command (.ldkey [0x0A, 0x0B, 0x0C])) [0x01] := by decide
theorem test_decode_ldiv : decode [0b00000011, 0b00000010, 0x01, 0x00] = .packet (.command (.ldiv [0x01, 0x00])) [] := by
  decide
theorem test_decode_round : decode [0b00000100, 0b00000000] = .packet (.command .round) [] := by decide
theorem test_decode_xorb : decode [0b00000101, 0b10100101] = .packet (.command (.xorb 0xA5)) [] := by decide
theorem test_decode_unknown_takes_two_bytes : decode [0x07, 0x10, 0x01, 0x00] =
    .packet (.illegal (.unknownOpcode 0x07 0x10)) [0x01, 0x00] := by decide
theorem test_decode_clr_argument : decode [0x01, 0x05] = .packet (.illegal (.nonzeroArgument 0x01 0x05)) [] := by decide
theorem test_decode_waits : decode [0x02, 0x02, 0xAA] = .incomplete .payload := by decide
theorem test_table_words : decodeTableWord 16 0x0100 = some .clr ∧ decodeTableWord 16 0x0541 = some (.xorb 0x41) ∧
    decodeTableWord 16 0x0302 = some (.ldiv [0x00, 0x00]) ∧ decodeTableWord 24 0x7F0201 = some (.ldkey [0x7F]) ∧
    decodeTableWord 16 0x0401 = none := by decide
theorem test_encode : encode (.ldiv [0x09, 0x08]) = [0x03, 0x02, 0x09, 0x08] ∧ encode (.xorb 0x41) = [0x05, 0x41] := by
  decide

/-! The assembler and the host. -/

/-- A line whose key or IV no packet carries does not assemble; with 255 bytes it does. -/
theorem test_rekey_line_length :
    rekeyLine (List.replicate 256 ['0', '0']) = none ∧
    rekeyLine (List.replicate 255 ['0', '0']) = some (.pseudo (.rekey (List.replicate 255 0))) := by decide +kernel
theorem test_newsession_line_length :
    newSessionLine (List.replicate 256 ['0', '0'] ++ [['/']]) = none ∧
    newSessionLine (['/'] :: List.replicate 256 ['0', '0']) = none ∧
    newSessionLine [['0', 'A'], ['/'], ['0', 'B']] = some (.pseudo (.newSession [0x0A] [0x0B])) := by decide +kernel

/-- The host may go on with a partial packet, not past its end, and not while a packet waits. -/
theorem test_host_moves :
    { State.reset with rx := [0x02] }.hostMaySend [0x02, 0xAA] = true ∧
    { State.reset with rx := [0x02, 0x01] }.hostMaySend [0xAA] = true ∧
    { State.reset with rx := [0x02, 0x01] }.hostMaySend [0xAA, 0x01] = false ∧
    { State.reset with rx := [0x01, 0x00] }.hostMaySend [0x04] = false := by decide

/-! States. -/

/-- The reset engine with a test ROM. -/
def start (rom : Rom) : Engine := { Engine.reset with rom := rom }

/-- The key 00..0F and the IV 10..1F of 95_test_vectors.md. -/
def keyPayload : List Byte := (List.range 16).map (BitVec.ofNat 8)
def ivPayload : List Byte := (List.range 16).map fun i => BitVec.ofNat 8 (0x10 + i)
def keyMaterial : KeyMaterial := ⟨keyPayload.toArray, by decide⟩
def ivMaterial : IvMaterial := ⟨ivPayload.toArray, by decide⟩

/-- An engine after LDKEY, and after LDIV, under the spec's default parameters. -/
def keyed (rom : Rom) : Engine := (start rom).loadKey .default keyMaterial
def primed (rom : Rom) : Engine := (keyed rom).loadIv .default ivMaterial

def on (e : Engine) : State := { engine := e, rx := [], tx := [] }

/-- The FIRST_BYTE parameters. -/
def firstByteParams : Config.Params := { cursorMode := .firstByte }

/-- What a test looks at in an outcome. -/
def see {α : Type} (f : Engine → α) : Host.Outcome State Fault Refusal → Option (List (List Byte) × α)
  | .next t => some (t.tx, f t.engine)
  | .fault _ => none
  | .refused _ => none

/-! One command each. -/

theorem test_clr_phase_and_key : see (fun e => (e.phase, e.keySize, e.snap[1], e.reg[1])) (execClr (on (keyed romT))) =
    some ([[0x00]], .empty, 0, 0, 0) := by decide +kernel
/-- The ROM stays: S1(01) of 95_test_vectors.md section 2. -/
theorem test_clr_counter_and_rom : see (fun e => (e.ctr, e.ksPos, e.rom.rom1[1])) (execClr (on { keyed romT with ctr := 5, ksPos := 3 })) =
    some ([[0x00]], 0, 8, 0x3C6EF372) := by decide +kernel

/-- 96_test_vectors_derived.md section 6, the second key. -/
theorem test_ldkey_zero_extends :
    see (fun e => (e.reg.toList, e.snap[28], e.keySize, e.phase)) (execLdkeyWith .default
      [0xFF, 0x11, 0x22, 0x33, 0x80, 0x44, 0x55, 0x66, 0x7F, 0x77, 0x88, 0x99, 0x01, 0xAA, 0xBB, 0xCC] (on (start romZero))) =
    some ([[0x00]],
      [0xFF, 0x80, 0x7F, 0x01, 0x7F, 0x01, 0xFF, 0x80, 0, 0, 0, 0, 0xFF, 0x80, 0x7F, 0x01,
       0x7F, 0x01, 0xFF, 0x80, 0xFF, 0x80, 0x7F, 0x01, 0, 0, 0, 0, 0x7F, 0x01, 0xFF, 0x80],
      0x7F, 128, .keyed) := by decide +kernel
theorem test_ldkey_seventeen_bytes : see (fun e => e.phase) (execLdkeyWith .default (keyPayload ++ [0x00]) (on (keyed romZero))) =
    some ([[0x01]], .keyed) := by decide +kernel

/-- 96_test_vectors_derived.md section 7, ROM_T. -/
theorem test_ldiv_session : see (fun e => (e.reg.toList.take 4, e.ctr, e.off, e.phase))
    (execLdivWith .default ivPayload (on (keyed romT))) =
    some ([[0x00]], [0xF88B6AAF, 0xD3C861DE, 0xF3E87156, 0x3C375289], 0xB81BAF5A8169A8EB, 0, .primed) := by
  decide +kernel
/-- 95_test_vectors.md P4, ROM_T: the second LDIV restores R from SNAP first. -/
theorem test_ldiv_rekey : see (fun e => (e.reg.toList.take 4, e.ctr, e.off))
    (execLdivWith .default ((List.range 16).map fun i => BitVec.ofNat 8 (0xA0 + i)) (on ((primed romT).regen .default))) =
    some ([[0x00]], [0xAC078724, 0xB21E4957, 0x01246D5A, 0x59FCE68A], 0x59BC1D17F0432650, 0) := by decide +kernel

/-- 95_test_vectors.md P1, ROM_T. -/
theorem test_round_first_block : see (fun e => (e.off, e.ctr, e.ksPos)) (execRoundWith .default (on (primed romT))) =
    some ([[0x00, 0xCC, 0x3D, 0xC9, 0x09, 0x39, 0xD3, 0xF6, 0xC1]], 2, 0xB81BAF5A8169A8EC, 0) := by decide +kernel
/-- 96_test_vectors_derived.md section 8.4. -/
theorem test_round_wraps : see (fun e => (e.off, e.ctr, e.reg[0], e.reg[1]))
    (execRoundWith .default (on { primed romZero with off := 30, ctr := 0xFFFFFFFFFFFFFFFF })) =
    some ([[0x00, 0x79, 0x23, 0x81, 0xC6, 0x31, 0x9E, 0x05, 0x63]], 0, 0, 0x84F11493, 0xAAE4E439) := by decide +kernel

/-- 96_test_vectors_derived.md section 8.3, ROM_T: byte 7 of block 0, then no round is run yet. -/
theorem test_xorb_last_byte : see (fun e => (e.ksPos, e.off))
    (execXorbWith .default 0x00 (on { start romZero with
      phase := .primed, off := 2, ksPos := 7, ksBuf := #v[0xCC, 0x3D, 0xC9, 0x09, 0x39, 0xD3, 0xF6, 0xC1] })) =
    some ([[0x00, 0xC1]], 8, 2) := by decide +kernel
/-- 96_test_vectors_derived.md section 8.3, ROM_T: the second byte of HELLO in FIRST_BYTE mode. -/
theorem test_xorb_first_byte_mode : see (fun e => (e.ksPos, e.off))
    (execXorbWith firstByteParams 0x45 (on { (primed romT).regen .default with ksPos := 1 })) =
    some ([[0x00, 0xA4]], 1, 4) := by decide +kernel

/-! The step, and the fixed entry points. -/

theorem test_step_illegal : step { on (start romZero) with rx := [0x01, 0x05, 0x04] } =
    .next { on (start romZero) with rx := [0x04], tx := [[0x06]] } := rfl
theorem test_step_round_is_not_primed : step (State.reset.withFetchWord 16 0x0400) =
    .next { State.reset with tx := [[0x05]] } := rfl
theorem test_step_ldiv_is_not_keyed : step (State.reset.withFetchWord 16 0x0302) =
    .next { State.reset with tx := [[0x04]] } := rfl
theorem test_reset_waits : step State.reset = .next State.reset := rfl

/-! Witnesses: for every statement that has hypotheses, concrete values that meet them, with the boundary values of each
clause. -/

def inPhase (ph : Phase) : State := { State.reset with engine := { Engine.reset with phase := ph } }

theorem witness_EncodedPacketsDecodeBack :
    (Packet.command (.ldkey (List.replicate 255 0xA5))).wellFormed = true ∧ (Packet.command (.ldiv [])).wellFormed = true ∧
    (Packet.illegal (.unknownOpcode 0x06 0x00)).wellFormed = true ∧
    (Packet.illegal (.nonzeroArgument 0x01 0xFF)).wellFormed = true := by decide +kernel

theorem witness_DecodedPacketsAreTheirBytes : decode [0x03, 0x01, 0x07, 0x00] = .packet (.command (.ldiv [0x07])) [0x00] := by
  decide

theorem witness_DecoderWaitsExactlyOnPartialPackets :
    decode [0x02] = .incomplete .header ∧ decode [0x04, 0x00] ≠ .incomplete .header ∧
    decode [0x02, 0x01] = .incomplete .payload ∧ decode [0x03, 0xFF, 0x00] = .incomplete .payload ∧
    decode [0x02, 0x00] ≠ .incomplete .payload ∧ decode [0x03, 0x01, 0x00] ≠ .incomplete .payload := by decide

theorem witness_IllegalHeadersAreThoseListed :
    decode [0x00, 0x00] = .packet (.illegal (.unknownOpcode 0x00 0x00)) [] ∧
    decode [0x06, 0x00] = .packet (.illegal (.unknownOpcode 0x06 0x00)) [] ∧
    decode [0xFF, 0xFF] = .packet (.illegal (.unknownOpcode 0xFF 0xFF)) [] ∧
    decode [0x01, 0x01] = .packet (.illegal (.nonzeroArgument 0x01 0x01)) [] ∧
    decode [0x04, 0xFF, 0x05] = .packet (.illegal (.nonzeroArgument 0x04 0xFF)) [0x05] := by decide

theorem witness_DecoderFollowsTheOpcodeMap :
    decode (0x05 :: 0xFF :: [0x01]) = .packet (.command (.xorb 0xFF)) [0x01] := by decide

theorem witness_StepRunsTheDecodedCommand :
    decode { inPhase .primed with rx := [0x05, 0x41, 0x01] }.rx = .packet (.command (.xorb 0x41)) [0x01] := by decide

theorem witness_StepAnswersIllegalHeaders :
    { inPhase .keyed with rx := [0x06, 0x02, 0x01] }.rx = 0x06 :: 0x02 :: [0x01] ∧ 0x06 ≤ (0x06 : Byte).toNat ∧
    ((0x04 : Byte) = 0x01 ∨ (0x04 : Byte) = 0x04) ∧ (0x01 : Byte) ≠ 0x00 := by decide

theorem witness_StepWaitsForTheRestOfAPacket :
    { inPhase .empty with rx := [0x01] }.rx.length < 2 ∧
    { inPhase .empty with rx := [0x02, 0x02, 0x09] }.rx = 0x02 :: 0x02 :: [0x09] ∧
    [(0x09 : Byte)].length < (0x02 : Byte).toNat := by decide

theorem witness_OnePacketOneResponse :
    step (inPhase .empty) = .next (inPhase .empty) ∧
    step { inPhase .empty with rx := [0x04, 0x00, 0x07] } = .next { inPhase .empty with rx := [0x07], tx := [[0x05]] } :=
  ⟨rfl, rfl⟩

theorem witness_RunServesPacketsInOrder :
    ∀ p ∈ [Packet.command .clr, .illegal (.nonzeroArgument 0x04 0x01), .command (.ldkey [])], p.wellFormed = true := by
  decide

/-- Two different engines of one view: the same words, reached from different cells. -/
theorem witness_SameViewSameResponses :
    Engine.reset ≠ { Engine.reset with off := 3 } ∧ Engine.reset.SameView { Engine.reset with off := 3 } ∧
    (inPhase .empty).rx = { inPhase .keyed with tx := [[0x00]] }.rx := by
  refine ⟨fun h => absurd (congrArg Engine.off h) (by decide), ?_, rfl⟩
  exact ⟨fun i => by simp [Engine.wordAt, Engine.reset], rfl, rfl, rfl, rfl, rfl, rfl, rfl, rfl⟩

theorem witness_LoadingMakesSameViewsEqual :
    (inPhase .primed).engine.SameView (inPhase .primed).engine ∧
    (inPhase .primed).engine.phase ≠ .empty ∧ (inPhase .primed).engine.fresh = false ∧
    exec (.ldiv ivMaterial.toList) (inPhase .primed) =
      (inPhase .primed).finish ((inPhase .primed).engine.loadIv Config.params ivMaterial) [] ∧
    exec (.ldkey keyMaterial.toList) (inPhase .primed) =
      (inPhase .primed).finish ((inPhase .primed).engine.loadKey Config.params keyMaterial) [] ∧
    exec .clr (inPhase .primed) = (inPhase .primed).finish (inPhase .primed).engine.clear [] := by
  refine ⟨⟨fun _ => rfl, rfl, rfl, rfl, rfl, rfl, rfl, rfl, rfl⟩, by decide, rfl, rfl, rfl, rfl⟩

theorem witness_KeySizeIsReadByNothing :
    Instr.round ≠ .clr ∧ (∀ payload, Instr.round ≠ .ldkey payload) := by
  refine ⟨by decide, fun _ => ?_⟩
  intro h
  cases h

theorem witness_StepKeepsInvariant :
    Engine.reset.Inv ∧ step { State.reset with rx := [0x05, 0x00] } = .next { State.reset with tx := [[0x05]] } := by
  refine ⟨?_, rfl⟩
  exact
    { keySize_values := .inl rfl
      fresh_iff_keyed := by decide
      keySize_zero_iff_empty := by decide
      empty_is_clear := fun _ => ⟨rfl, rfl, rfl, rfl, rfl, rfl⟩
      keyed_is_scheduled := fun h => nomatch h
      primed_even := fun h => nomatch h
      snap_is_key_layout := fun h => absurd rfl h }

theorem witness_StepNeverWritesRom :
    step { inPhase .primed with rx := [0x01, 0x00] } =
      .next { engine := (inPhase .primed).engine.clear, rx := [], tx := [[0x00]] } := rfl

theorem witness_ClrGivesTheResetState : (inPhase .primed).engine.rom = Engine.reset.rom := rfl

theorem witness_LdkeyRefusesWrongLength :
    (keyPayload ++ [0x00]).length ≠ 16 ∧ (keyPayload.take 15).length ≠ 16 ∧ ([] : List Byte).length ≠ 16 ∧
    (List.replicate 255 (0x00 : Byte)).length ≤ 255 ∧ (List.replicate 255 (0x00 : Byte)).length ≠ 16 ∧
    { inPhase .primed with rx := [0x02, 0x01, 0xAA, 0x04, 0x00] }.rx =
      0x02 :: BitVec.ofNat 8 [(0xAA : Byte)].length :: ([0xAA] ++ [0x04, 0x00]) := by decide +kernel

theorem witness_OnlyFourBytesOfMaterialMatter :
    let x := keyMaterial
    let y := (keyMaterial.set 1 0xFF).set 15 0xFF
    let u := ivMaterial
    let v := (ivMaterial.set 1 0xFF).set 15 0xFF
    x ≠ y ∧ x[0] = y[0] ∧ x[4] = y[4] ∧ x[8] = y[8] ∧ x[12] = y[12] ∧
    u ≠ v ∧ u[0] = v[0] ∧ u[4] = v[4] ∧ u[8] = v[8] ∧ u[12] = v[12] := by decide

theorem witness_LdivNeedsAKey : (inPhase .empty).engine.phase = .empty := rfl

theorem witness_LdivRefusesWrongLength :
    (inPhase .keyed).engine.phase ≠ .empty ∧ (inPhase .primed).engine.phase ≠ .empty ∧
    (ivPayload ++ [0x00]).length ≠ 16 ∧ (ivPayload.take 15).length ≠ 16 ∧
    { inPhase .keyed with rx := [0x03, 0x00, 0x04] }.rx = 0x03 :: BitVec.ofNat 8 ([] : List Byte).length :: ([] ++ [0x04]) ∧
    (List.replicate 255 (0x00 : Byte)).length ≤ 255 ∧ ([] : List Byte).length ≠ 16 := by decide +kernel

theorem witness_LdivMixesTheIv :
    (inPhase .keyed).engine.phase ≠ .empty ∧ (inPhase .primed).engine.phase ≠ .empty ∧
    { (inPhase .keyed).engine with fresh := true }.fresh = true ∧ (inPhase .primed).engine.fresh = false := by decide

theorem witness_MixStageEffect : 4 ≤ 4 ∧ 4 < 32 ∧ 4 ≤ 31 ∧ 31 < 32 := by decide

/-- The cells from OFF = 28 on are 28 to 31, so cell 5 is not among them. -/
theorem witness_MixingWalksTheWindow :
    (Engine.reset, Carry.initial).1.off = 0 ∧
    ∀ j < 4, (5 : Fin 32) ≠ physIndex (mixStages Config.Params.default 1 (start romZero, Carry.initial)).1.off j := by
  decide +kernel

theorem witness_BulkOperationsAreAccessorCalls : Engine.reset.off = 0 := rfl

theorem witness_IvLayoutTouchesOnlyItsWords :
    (0 < 32 ∧ 0 ∉ [8, 9, 10, 11, 24, 25, 26, 27, 4, 5, 12, 13, 16, 17, 18, 19, 28, 29]) ∧
    (31 < 32 ∧ 31 ∉ [8, 9, 10, 11, 24, 25, 26, 27, 4, 5, 12, 13, 16, 17, 18, 19, 28, 29]) ∧
    8 ∈ [8, 9, 10, 11, 24, 25, 26, 27] ∧ 27 ∈ [8, 9, 10, 11, 24, 25, 26, 27] := by decide

theorem witness_CallOrderIsImmaterial :
    [⟨.xor, .b, .a⟩, ⟨.xor, .d, .c⟩, ⟨.xor, .f, .e⟩] ∈ canonicalCalls ∧
    List.Perm [⟨PairOp.xor, .f, .e⟩, ⟨.xor, .b, .a⟩, ⟨.xor, .d, .c⟩]
      [(⟨.xor, .b, .a⟩ : Pair), ⟨.xor, .d, .c⟩, ⟨.xor, .f, .e⟩] := by decide

theorem witness_EqualBytesGiveBothTables : ∀ q : Fin 4, byteOf q 0xA5A5A5A5 = 0xA5 := by decide

theorem witness_RoundRunsOneRound : (inPhase .primed).engine.phase = .primed := rfl

theorem witness_KeystreamNeedsAPrimedSession :
    (inPhase .empty).engine.phase ≠ .primed ∧ (inPhase .keyed).engine.phase ≠ .primed := by decide

theorem witness_RoundWindowMovesByTwo : 2 ≤ 2 ∧ 2 < 30 ∧ 2 ≤ 29 ∧ 29 < 30 := by decide

/-- KSPOS at both ends of each clause. -/
theorem witness_XorbServesOneByte :
    (inPhase .primed).engine.phase = .primed ∧ (inPhase .primed).engine.ksPos = 8 ∧
    { (inPhase .primed).engine with ksPos := 7 }.ksPos.val < 8 ∧
    { (inPhase .primed).engine with ksPos := 0 }.ksPos.val < 8 := by decide

theorem witness_KeystreamIsTheBlocksInOrder :
    Config.Params.default.cursorMode = .sequential ∧ (inPhase .primed).engine.phase = .primed ∧
    (inPhase .primed).engine.ksPos = 8 := ⟨rfl, rfl, rfl⟩

theorem witness_RoundRebasesTheCursor :
    Config.Params.default.cursorMode = .sequential ∧ (inPhase .primed).engine.phase = .primed ∧
    (List.replicate 8 (0x00 : Byte)).length ≤ 8 ∧
    execRoundWith .default (inPhase .primed) = (inPhase .primed).finish ((inPhase .primed).engine.regen .default)
      ((inPhase .primed).engine.regen .default).ksBuf.toList := ⟨rfl, rfl, by decide, rfl⟩

theorem witness_FirstByteModeSpendsARoundPerByte :
    firstByteParams.cursorMode = .firstByte ∧ (inPhase .primed).engine.phase = .primed ∧ [(0x48 : Byte)] ≠ [] :=
  ⟨rfl, rfl, by decide⟩

theorem witness_StreamSymmetry :
    (inPhase .primed).engine.phase = .primed ∧
    { inPhase .primed with tx := [[0x00]] }.engine = (inPhase .primed).engine := ⟨rfl, rfl⟩

theorem witness_StatusOfEveryCommandInEveryPhase :
    expectedStatus (.ldkey keyPayload) .empty = .ok ∧ expectedStatus (.ldiv (keyPayload.take 15)) .empty = .notKeyed ∧
    expectedStatus (.ldiv (keyPayload.take 15)) .primed = .invalidIVSize ∧ expectedStatus .round .keyed = .notPrimed := by
  decide

theorem witness_ErrorsChangeNothing :
    step { inPhase .keyed with rx := [0x04, 0x01] } = .next { inPhase .keyed with tx := [[0x06]] } ∧
    { inPhase .keyed with tx := [[0x06]] }.tx = { inPhase .keyed with rx := [0x04, 0x01] }.tx ++ [(0x06 : Byte) :: []] ∧
    (0x06 : Byte) ≠ 0x00 := ⟨rfl, rfl, by decide⟩

theorem witness_LengthMismatchIsNeverSent :
    step { inPhase .empty with rx := [0x02, 0x00] } = .next { inPhase .empty with tx := [[0x01]] } ∧
    [(0x01 : Byte)] ∈ { inPhase .empty with tx := [[0x01]] }.tx ∧
    [(0x01 : Byte)] ∉ { inPhase .empty with rx := [0x02, 0x00] }.tx := ⟨rfl, by decide, by decide⟩

theorem witness_NewSessionFailures :
    (keyPayload.take 15).length ≠ 16 ∧ keyPayload.length = 16 ∧ (ivPayload.take 15).length ≠ 16 := by decide

theorem witness_NewSessionIsDeterministic : (inPhase .empty).engine.rom = (inPhase .primed).engine.rom := rfl

theorem witness_PrintedCommandsAssembleBack :
    (Instr.ldkey (List.replicate 255 0xFF)).wellFormed = true ∧ (Instr.ldiv []).wellFormed = true ∧
    Instr.clr.wellFormed = true ∧ Instr.round.wellFormed = true ∧ (Instr.xorb 0x0A).wellFormed = true := by decide +kernel

/-- A packet that waits, a move that leaves a packet incomplete, and one that completes it. -/
theorem witness_HostSendsOnePacketAtATime :
    decode { inPhase .keyed with rx := [0x05, 0x41] }.rx = .packet (.command (.xorb 0x41)) [] ∧
    (inPhase .keyed).hostSend [0x02] = some { inPhase .keyed with rx := [0x02] } ∧
    { inPhase .keyed with rx := [0x04] }.hostSend [0x01] = some { inPhase .keyed with rx := [0x04, 0x01] } ∧
    step { inPhase .keyed with rx := [0x04, 0x01] } = .next { inPhase .keyed with tx := [[0x06]] } ∧
    (Packet.command (.ldiv (List.replicate 255 0x11))).wellFormed = true ∧ (inPhase .keyed).rx = [] :=
  ⟨by decide, rfl, rfl, rfl, by decide +kernel, rfl⟩

theorem witness_EnginesAreIndependent :
    stepEngine 1 [inPhase .keyed, { inPhase .empty with rx := [0x04, 0x00] }] =
      .next [inPhase .keyed, { inPhase .empty with tx := [[0x05]] }] ∧
    stepEngine 2 [inPhase .keyed] = .next [inPhase .keyed] := ⟨rfl, rfl⟩

end Sys2Proof.Tests
end

section
/-! Proofs of the family 10_state.md: the state as a whole, its reset, its ROM, KEYSIZE, the bulk operations on R, and
several engines. First the facts about the operations, in the order of the model, then the obligations. -/

namespace Sys2Proof.Machine

/-! The logical accessors at OFF = 0, where logical and physical indices agree (10_state.md R21). -/

theorem physIndex_of_off_zero {off : BitVec offBits} (hoff : off = 0) (q : Fin 32) : physIndex off q.val = q := by
  rw [Fin.ext_iff, physIndex_val, hoff]
  simp [Nat.mod_eq_of_lt q.isLt]

theorem Engine.wordAt_of_off_zero {e : Engine} (hoff : e.off = 0) (q : Fin 32) : e.wordAt q.val = e.reg[q] := by
  simp only [Engine.wordAt, physIndex_of_off_zero hoff]

/-- Logical writes at OFF = 0, one for each cell of a list: each cell named gets its own word, and no other changes. -/
theorem Engine.foldl_setWordAt_of_off_zero (v : Fin 32 → Word) (cells : List (Fin 32)) {e : Engine} (hoff : e.off = 0) :
    cells.foldl (fun x q => x.setWordAt q.val (v q)) e =
      { e with reg := Vector.ofFn fun q => if q ∈ cells then v q else e.reg[q] } := by
  induction cells generalizing e with
  | nil =>
    simp
  | cons c cells ih =>
    have hset : e.setWordAt c.val (v c) = { e with reg := e.reg.set c (v c) } := by
      simp only [Engine.setWordAt, physIndex_of_off_zero hoff]
    rw [List.foldl_cons, hset, ih (e := { e with reg := e.reg.set c (v c) }) hoff]
    congr 2
    funext q
    rw [getElem_set_physIndex]
    by_cases hq : q = c
    · subst hq; simp
    · simp [hq, Ne.symm hq]

/-- Writing every cell at OFF = 0 lays out the whole register. -/
theorem Engine.foldl_setWordAt_finRange (v : Fin 32 → Word) {e : Engine} (hoff : e.off = 0) :
    (List.finRange 32).foldl (fun x q => x.setWordAt q.val (v q)) e = { e with reg := Vector.ofFn v } := by
  rw [Engine.foldl_setWordAt_of_off_zero v _ hoff]
  simp only [List.mem_finRange, if_true]

/-! LDKEY depends on the engine through the ROM only. -/

/-- Logical writes read R and OFF only. -/
theorem Engine.setWords_eq_of_reg_off {x y : Engine} (hreg : x.reg = y.reg) (hoff : x.off = y.off)
    (writes : List (Nat × Word)) : x.setWords writes = { x with reg := (y.setWords writes).reg } := by
  induction writes generalizing x y with
  | nil => simp [Engine.setWords, ← hreg]
  | cons w ws ih =>
    have hreg' : (x.setWordAt w.1 w.2).reg = (y.setWordAt w.1 w.2).reg := by simp [hreg, hoff]
    exact ih hreg' hoff

/-- LDKEY overwrites every field but the ROM with what the key says (41_key_scheduler.md R100). -/
theorem Engine.loadKey_eq (p : Config.Params) (key : KeyMaterial) (e : Engine) :
    e.loadKey p key = { Engine.reset.loadKey p key with rom := e.rom } := by
  have hwrites := Engine.setWords_eq_of_reg_off (x := (e.clearRegister.setCounter 0).dropBlock)
    (y := (Engine.reset.clearRegister.setCounter 0).dropBlock) rfl rfl (keyWrites p key)
  obtain ⟨reg, hreset⟩ := Engine.setWords_frame (Engine.reset.clearRegister.setCounter 0).dropBlock (keyWrites p key)
  simp only [Engine.loadKey, hwrites, hreset]
  rfl

/-! No command writes the ROM (10_state.md R30). -/

theorem Engine.loadKey_rom (p : Config.Params) (key : KeyMaterial) (e : Engine) : (e.loadKey p key).rom = e.rom := by
  rw [Engine.loadKey_eq]

theorem Engine.loadIv_rom (p : Config.Params) (iv : IvMaterial) (e : Engine) : (e.loadIv p iv).rom = e.rom := by
  obtain ⟨_, _, _, h⟩ := Engine.loadIv_frame p iv e
  rw [h]

theorem Engine.supply_rom (p : Config.Params) (e : Engine) : (e.supply p).1.rom = e.rom := by
  obtain ⟨_, _, h⟩ | ⟨_, h⟩ := Engine.supply_cases p e
  · rw [h]
  · obtain ⟨_, _, _, _, hrom⟩ := Engine.regen_frame p e
    rw [h, hrom]

theorem answer_rom (i : Instr) (e : Engine) : (answer i e).engine.rom = e.rom := by
  cases i with
  | clr => rfl
  | ldkey payload =>
    simp only [answer]
    split
    · rfl
    · exact Engine.loadKey_rom ..
  | ldiv payload =>
    simp only [answer]
    split
    · rfl
    · split
      · rfl
      · exact Engine.loadIv_rom ..
  | round =>
    simp only [answer]
    split <;> rfl
  | xorb data =>
    simp only [answer]
    split
    · exact Engine.supply_rom ..
    · rfl

/-! KEYSIZE (10_state.md R24): each operation gives the same result with another value in it. -/

/-- The engine with another value in KEYSIZE. -/
def Engine.withKeySize (e : Engine) (k : BitVec 8) : Engine := { e with keySize := k }

theorem Engine.loadKey_withKeySize (p : Config.Params) (key : KeyMaterial) (e : Engine) (k : BitVec 8) :
    (e.withKeySize k).loadKey p key = e.loadKey p key := by
  rw [Engine.loadKey_eq, Engine.loadKey_eq p key e]
  rfl

theorem Engine.regen_withKeySize (p : Config.Params) (e : Engine) (k : BitVec 8) :
    (e.withKeySize k).regen p = (e.regen p).withKeySize k := rfl

theorem Engine.supply_withKeySize (p : Config.Params) (e : Engine) (k : BitVec 8) :
    (e.withKeySize k).supply p = ((e.supply p).1.withKeySize k, (e.supply p).2) := by
  unfold Engine.supply
  cases p.cursorMode with
  | firstByte => rfl
  | sequential =>
    by_cases h : e.ksPos.val < blockBytes
    · have hk : (e.withKeySize k).ksPos.val < blockBytes := h
      simp only [dif_pos h, dif_pos hk]
      rfl
    · have hk : ¬(e.withKeySize k).ksPos.val < blockBytes := h
      simp only [dif_neg h, dif_neg hk, Engine.regen_withKeySize]

theorem Engine.applyIvEntry_withKeySize (p : Config.Params) (iv : IvMaterial) (e : Engine) (k : BitVec 8)
    (entry : Config.LayoutEntry) :
    (e.withKeySize k).applyIvEntry p iv entry = (e.applyIvEntry p iv entry).withKeySize k := by
  unfold Engine.applyIvEntry
  cases entry.mode <;> rfl

theorem Engine.applyIvLayout_withKeySize (p : Config.Params) (iv : IvMaterial) (e : Engine) (k : BitVec 8) :
    (e.withKeySize k).applyIvLayout p iv = (e.applyIvLayout p iv).withKeySize k :=
  List.foldl_hom (Engine.withKeySize · k) fun x entry => Engine.applyIvEntry_withKeySize p iv x k entry

theorem mixStage_withKeySize (p : Config.Params) (e : Engine) (c : Carry) (k : BitVec 8) :
    mixStage p (e.withKeySize k, c) = ((mixStage p (e, c)).1.withKeySize k, (mixStage p (e, c)).2) := rfl

theorem mixStages_withKeySize (p : Config.Params) (n : Nat) (e : Engine) (c : Carry) (k : BitVec 8) :
    mixStages p n (e.withKeySize k, c) = ((mixStages p n (e, c)).1.withKeySize k, (mixStages p n (e, c)).2) := by
  induction n generalizing e c with
  | zero => rfl
  | succ n ih => rw [mixStages, mixStage_withKeySize, ih]; rfl

theorem Engine.restoreUnlessFresh_withKeySize (e : Engine) (k : BitVec 8) :
    (e.withKeySize k).restoreUnlessFresh = e.restoreUnlessFresh.withKeySize k := by
  obtain ⟨hf, h⟩ | ⟨hf, h⟩ := e.restoreUnlessFresh_cases
  · rw [h]; exact if_pos hf
  · rw [h]; exact if_neg (by simp [Engine.withKeySize, hf])

theorem Engine.loadIv_withKeySize (p : Config.Params) (iv : IvMaterial) (e : Engine) (k : BitVec 8) :
    (e.withKeySize k).loadIv p iv = (e.loadIv p iv).withKeySize k := by
  simp only [Engine.loadIv, Engine.mixIv, Engine.restoreUnlessFresh_withKeySize, Engine.applyIvLayout_withKeySize,
    mixStages_withKeySize]
  rfl

/-- The answer with another value in the KEYSIZE it leaves. -/
def Answer.withKeySize (a : Answer) (k : BitVec 8) : Answer := { a with engine := a.engine.withKeySize k }

theorem Answer.withKeySize_self (a : Answer) : a.withKeySize a.engine.keySize = a := rfl

/-- LDIV, ROUND and XORB carry whatever value KEYSIZE has through. -/
theorem answer_withKeySize_of_ne {i : Instr} (hclr : i ≠ .clr) (hldkey : ∀ payload, i ≠ .ldkey payload) (e : Engine)
    (k : BitVec 8) : answer i (e.withKeySize k) = (answer i e).withKeySize k := by
  cases i with
  | clr => exact absurd rfl hclr
  | ldkey payload => exact absurd rfl (hldkey payload)
  | ldiv payload =>
    by_cases hp : e.phase = .empty
    · have hk : (e.withKeySize k).phase = .empty := hp
      simp only [answer, if_pos hp, if_pos hk]
      rfl
    · have hk : (e.withKeySize k).phase ≠ .empty := hp
      simp only [answer, if_neg hp, if_neg hk, Engine.loadIv_withKeySize]
      cases materialOf ivBytes payload <;> rfl
  | round =>
    by_cases hp : e.phase = .primed
    · have hk : (e.withKeySize k).phase = .primed := hp
      simp only [answer, if_pos hp, if_pos hk, Engine.regen_withKeySize]
      rfl
    · have hk : (e.withKeySize k).phase ≠ .primed := hp
      simp only [answer, if_neg hp, if_neg hk]
      rfl
  | xorb data =>
    by_cases hp : e.phase = .primed
    · have hk : (e.withKeySize k).phase = .primed := hp
      simp only [answer, if_pos hp, if_pos hk, Engine.supply_withKeySize]
      rfl
    · have hk : (e.withKeySize k).phase ≠ .primed := hp
      simp only [answer, if_neg hp, if_neg hk]
      rfl

/-- Every command's answer is the same but for the KEYSIZE it leaves. -/
theorem answer_withKeySize (i : Instr) (e : Engine) (k : BitVec 8) :
    ∃ k', answer i (e.withKeySize k) = (answer i e).withKeySize k' := by
  cases i with
  | clr => exact ⟨_, (Answer.withKeySize_self (answer .clr e)).symm⟩
  | ldkey payload =>
    simp only [answer, Engine.loadKey_withKeySize]
    cases materialOf keyBytes payload with
    | none => exact ⟨k, rfl⟩
    | some key => exact ⟨_, (Answer.withKeySize_self _).symm⟩
  | ldiv payload => exact ⟨k, answer_withKeySize_of_ne (i := .ldiv payload) nofun nofun e k⟩
  | round => exact ⟨k, answer_withKeySize_of_ne (i := .round) nofun nofun e k⟩
  | xorb data => exact ⟨k, answer_withKeySize_of_ne (i := .xorb data) nofun nofun e k⟩

/-- Carrying every value through includes the one that is there. -/
theorem answer_keySize_of_ne {i : Instr} (hclr : i ≠ .clr) (hldkey : ∀ payload, i ≠ .ldkey payload) (e : Engine) :
    (answer i e).engine.keySize = e.keySize :=
  congrArg (·.engine.keySize) (answer_withKeySize_of_ne hclr hldkey e e.keySize)

/-! The ROM after reset. -/

/-- A table holds its function's values (10_state.md R30). -/
@[simp] theorem romTable_getElem (f : Byte → Word) (v : Byte) : (romTable f)[v.toNat]'v.isLt = f v := by
  simp [romTable]

/-! Several engines. -/

/-- What a step of engine `k` can do: nothing where there is no such engine, else that engine's own step in its place. -/
theorem stepEngine_cases {k : Nat} {engines after : List State} (h : stepEngine k engines = .next after) :
    (engines[k]? = none ∧ after = engines) ∨
    (∃ s t, engines[k]? = some s ∧ step s = .next t ∧ after = engines.set k t) := by
  unfold stepEngine at h
  cases hk : engines[k]? with
  | none =>
    simp only [hk] at h
    cases h
    exact .inl ⟨rfl, rfl⟩
  | some s =>
    simp only [hk] at h
    cases hs : step s with
    | next t =>
      simp only [hs] at h
      cases h
      exact .inr ⟨s, t, rfl, hs, rfl⟩
    | fault r => simp only [hs] at h; cases h
    | refused r => simp only [hs] at h; cases h

/-! The obligations of 10_state.md. -/

/-- Settles O15: the answer of every command commutes with putting another value into KEYSIZE. -/
theorem keySizeIsReadByNothing : Obligations.KeySizeIsReadByNothing := by
  intro i s k
  obtain ⟨k', hk'⟩ := answer_withKeySize i s.engine k
  refine ⟨_, _, exec_eq_answer i s, exec_eq_answer i { s with engine := s.engine.withKeySize k }, ?_⟩
  refine ⟨?_, rfl, ?_, fun hclr hldkey => ⟨answer_keySize_of_ne hclr hldkey s.engine, ?_⟩⟩
  · simp only [State.after, hk']; rfl
  · simp only [State.after, hk']; rfl
  · simp only [State.after, answer_withKeySize_of_ne hclr hldkey]; rfl

/-- Settles O19: a step waits, or leaves the engine of one command's answer, or raises. -/
theorem stepNeverWritesRom : Obligations.StepNeverWritesRom := by
  intro s t h
  obtain ⟨_, _, rfl⟩ | ⟨i, rest, _, hexec⟩ | ⟨_, _, _, rfl⟩ := step_cases h
  · rfl
  · rw [exec_eq_answer] at hexec
    cases hexec
    exact answer_rom i s.engine
  · rfl

/-- Settles O29: 32 logical writes at OFF = 0 lay out the whole register. -/
theorem bulkOperationsAreAccessorCalls : Obligations.BulkOperationsAreAccessorCalls := by
  intro e
  refine ⟨?_, ?_, fun hoff q => (Engine.wordAt_of_off_zero hoff q).symm⟩
  · have hsnap : (Vector.ofFn fun q : Fin 32 => e.snap[q]) = e.snap := by ext; simp
    rw [Engine.foldl_setWordAt_finRange (fun q => e.snap[q]) rfl, hsnap]
    rfl
  · have hzero : (Vector.ofFn fun _ : Fin 32 => (0 : Word)) = Vector.replicate 32 0 := by ext; simp
    rw [Engine.foldl_setWordAt_finRange (fun _ => 0) rfl, hzero]
    rfl

/-- Settles O16: every field but the ROM holds its reset value by definition, and the tables hold S1 and S2. -/
theorem resetState : Obligations.ResetState :=
  ⟨rfl, rfl, rfl, rfl, rfl, rfl, rfl, rfl, rfl, fun v => ⟨romTable_getElem Config.s1 v, romTable_getElem Config.s2 v⟩⟩

/-- Settles O58: a step sets at most the one place `k` of the list. -/
theorem enginesAreIndependent : Obligations.EnginesAreIndependent := by
  intro engines after k h
  obtain ⟨hk, rfl⟩ | ⟨s, t, hk, hs, rfl⟩ := stepEngine_cases h
  · exact ⟨rfl, fun _ _ => rfl, fun s hs => by rw [hk] at hs; cases hs⟩
  · obtain ⟨hlt, _⟩ := List.getElem?_eq_some_iff.mp hk
    refine ⟨List.length_set, fun j hj => List.getElem?_set_ne hj.symm, fun s' hs' => ?_⟩
    rw [hk] at hs'
    cases hs'
    exact ⟨t, hs, List.getElem?_set_self hlt⟩

end Sys2Proof.Machine
end

section
/-! Proofs of the family 20_memory.md: packets served strictly in order, and the four bytes of material that WORD_LOAD
reads. First the facts about the decoder, the serving of a packet and the word load, then the obligations. -/

namespace Sys2Proof

/-! The decoder takes the bytes of a packet off the front of a stream, and no more (30_encoding.md R80). -/

/-- The length test passes with the bytes after the payload still there, and the cut falls between the two. -/
theorem takePayload_append {payload : List Byte} (hfits : payloadFits payload = true) (command : List Byte → Instr)
    (rest : List Byte) :
    takePayload command (BitVec.ofNat 8 payload.length) (payload ++ rest) =
      .packet (.command (command payload)) rest := by
  simp [takePayload, payloadFits_toNat hfits]

theorem decode_encode_append {i : Instr} (hi : i.wellFormed = true) (rest : List Byte) :
    decode (encode i ++ rest) = .packet (.command i) rest := by
  cases i with
  | clr => rfl
  | ldkey payload => exact takePayload_append hi .ldkey rest
  | ldiv payload => exact takePayload_append hi .ldiv rest
  | round => rfl
  | xorb data => rfl

theorem decode_illegalHeader_append {why : IllegalHeader} (hwhy : why.wellFormed = true) (rest : List Byte) :
    decode (why.bytes ++ rest) = .packet (.illegal why) rest := by
  cases why with
  | unknownOpcode op arg =>
    have hop : op ≠ opClr ∧ op ≠ opLdkey ∧ op ≠ opLdiv ∧ op ≠ opRound ∧ op ≠ opXorb := by
      simpa [IllegalHeader.wellFormed] using hwhy
    obtain ⟨hclr, hldkey, hldiv, hround, hxorb⟩ := hop
    simp [IllegalHeader.bytes, decode_header, *]
  | nonzeroArgument op arg =>
    have hop : (op = opClr ∨ op = opRound) ∧ arg ≠ 0x00 := by simpa [IllegalHeader.wellFormed] using hwhy
    obtain ⟨rfl | rfl, harg⟩ := hop <;> exact if_neg harg

theorem decode_encodePacket_append {p : Packet} (hp : p.wellFormed = true) (rest : List Byte) :
    decode (encodePacket p ++ rest) = .packet p rest := by
  cases p with
  | command i => exact decode_encode_append hp rest
  | illegal why => exact decode_illegalHeader_append hp rest

end Sys2Proof

namespace Sys2Proof.Machine

/-! Serving one packet. -/

/-- What each packet is answered: an illegal header is answered by the decoder's error, the engine unchanged. -/
def packetAnswer (p : Packet) (e : Engine) : Answer :=
  match p with
  | .command i => answer i e
  | .illegal _ => ⟨.illegalCommand, [], e⟩

/-- Every packet answers a next state, and all it does to the state is its answer, whatever bytes wait in rx. -/
theorem runPacket_eq_packetAnswer (p : Packet) (s : State) :
    runPacket p s = .next (s.after (packetAnswer p s.engine)) := by
  cases p with
  | command i => exact exec_eq_answer i s
  | illegal why => rfl

theorem step_encodePacket_append {p : Packet} (hp : p.wellFormed = true) (rest : List Byte) (s : State) :
    step { s with rx := encodePacket p ++ rest } = runPacket p { s with rx := rest } := by
  simp only [step, serveNext, State.fetch, decode_encodePacket_append hp]

/-- Serving a packet passes the bytes in rx through. -/
theorem runPacket_with_rx (p : Packet) (s : State) (rest : List Byte) :
    runPacket p { s with rx := rest } = .next { s.after (packetAnswer p s.engine) with rx := rest } :=
  runPacket_eq_packetAnswer p { s with rx := rest }

theorem runPackets_cons_with_rx (p : Packet) (ps : List Packet) (s : State) (rest : List Byte) :
    runPackets (p :: ps) { s with rx := rest } =
      runPackets ps { s.after (packetAnswer p s.engine) with rx := rest } := by
  simp only [runPackets, runPacket_with_rx]

/-! The word load reads bytes 0, 4, 8 and 12 (20_memory.md R59), and what is loaded from two materials that agree there
is the same. -/

/-- Two materials that agree wherever WORD_LOAD reads. -/
def SameLoads (x y : Vector Byte 16) : Prop :=
  ∀ (load : Config.WordLoad) (j : Fin 4), wordLoad load x j = wordLoad load y j

theorem sameLoads_of_bytes {x y : Vector Byte 16} (h0 : x[0] = y[0]) (h4 : x[4] = y[4]) (h8 : x[8] = y[8])
    (h12 : x[12] = y[12]) : SameLoads x y := by
  intro load j
  cases load
  have hbyte : x[4 * j.val] = y[4 * j.val] := by
    match j with
    | 0 => exact h0
    | 1 => exact h4
    | 2 => exact h8
    | 3 => exact h12
  exact congrArg (BitVec.setWidth wordBits) hbyte

theorem Engine.loadKey_congr {x y : KeyMaterial} (h : SameLoads x y) (p : Config.Params) (e : Engine) :
    e.loadKey p x = e.loadKey p y := by
  have hwrites : keyWrites p x = keyWrites p y := by simp only [keyWrites, h p.wordLoad]
  simp only [Engine.loadKey, hwrites]

theorem Engine.applyIvEntry_congr {x y : IvMaterial} (h : SameLoads x y) (p : Config.Params) (e : Engine)
    (entry : Config.LayoutEntry) : e.applyIvEntry p x entry = e.applyIvEntry p y entry := by
  simp only [Engine.applyIvEntry, h p.wordLoad]

theorem Engine.loadIv_congr {x y : IvMaterial} (h : SameLoads x y) (p : Config.Params) (e : Engine) :
    e.loadIv p x = e.loadIv p y := by
  have hentry : Engine.applyIvEntry p x = Engine.applyIvEntry p y := by
    funext e entry
    exact Engine.applyIvEntry_congr h p e entry
  simp only [Engine.loadIv, Engine.mixIv, Engine.applyIvLayout, hentry]

theorem answer_ldkey_congr {x y : KeyMaterial} (h : SameLoads x y) (e : Engine) :
    answer (.ldkey x.toList) e = answer (.ldkey y.toList) e := by
  simp only [answer, materialOf_toList, Engine.loadKey_congr h]

theorem answer_ldiv_congr {x y : IvMaterial} (h : SameLoads x y) (e : Engine) :
    answer (.ldiv x.toList) e = answer (.ldiv y.toList) e := by
  simp only [answer, materialOf_toList, Engine.loadIv_congr h]

/-- What holds of zero and of the four loaded words holds of every word of the key image (41_key_scheduler.md R103). -/
theorem keyImageOf_getElem_of_forall {P : Word → Prop} {k0 k4 k8 k12 : Word} (hzero : P 0#32) (h0 : P k0) (h4 : P k4)
    (h8 : P k8) (h12 : P k12) (q : Fin 32) : P (keyImageOf k0 k4 k8 k12)[q] := by
  have hall : ∀ w ∈ keyImageOf k0 k4 k8 k12, P w := by simp [keyImageOf, *]
  exact hall _ (Vector.getElem_mem q.isLt)

/-- A byte as a word is below 0x100. -/
theorem byte_setWidth_toNat_lt (b : Byte) : (b.setWidth 32).toNat < 0x100 := by
  rw [BitVec.toNat_setWidth]
  exact (Nat.mod_le _ _).trans_lt b.isLt

/-! The obligations of 20_memory.md. -/

/-- Settles O12, by induction on the packets: one step consumes the first packet and passes the bytes after it
through. -/
theorem runServesPacketsInOrder : Obligations.RunServesPacketsInOrder := by
  intro ps rest s hps
  induction ps generalizing s with
  | nil => rfl
  | cons p ps ih =>
    obtain ⟨hp, hps⟩ := List.forall_mem_cons.mp hps
    have hstep : step { s with rx := (p :: ps).flatMap encodePacket ++ rest } =
        .next { s.after (packetAnswer p s.engine) with rx := ps.flatMap encodePacket ++ rest } := by
      rw [List.flatMap_cons, List.append_assoc, step_encodePacket_append hp, runPacket_with_rx]
    rw [List.length_cons, core_run_next (M := core) _ hstep, ih _ hps, runPackets_cons_with_rx]

/-- Settles O23: LDKEY and LDIV read their material through WORD_LOAD only, and a loaded word is a byte. -/
theorem onlyFourBytesOfMaterialMatter : Obligations.OnlyFourBytesOfMaterialMatter := by
  refine ⟨fun x y h0 h4 h8 h12 s => ?_, fun x y h0 h4 h8 h12 s => ?_, fun key q => ?_⟩
  · rw [exec_eq_answer, exec_eq_answer, answer_ldkey_congr (sameLoads_of_bytes h0 h4 h8 h12)]
  · rw [exec_eq_answer, exec_eq_answer, answer_ldiv_congr (sameLoads_of_bytes h0 h4 h8 h12)]
  · exact keyImageOf_getElem_of_forall (P := fun w => w.toNat < 0x100) (by decide) (byte_setWidth_toNat_lt _)
      (byte_setWidth_toNat_lt _) (byte_setWidth_toNat_lt _) (byte_setWidth_toNat_lt _) q

end Sys2Proof.Machine
end

section
/-! Proofs of the family 30_encoding.md: the decoder and the packets, what every command answers, and NEWSESSION. First
the facts about the decoder, the opcode map, the answers and the mixing pointer, then the obligations. -/

namespace Sys2Proof

/-! Every byte stream is one of three: too short for a header, short of payload, or a packet and the bytes after it
(30_encoding.md R80). The decoder is determined on each. -/

/-- A format L header is there, and fewer payload bytes than its ARG says. -/
def LacksPayload (bs : List Byte) : Prop :=
  ∃ op arg rest, bs = op :: arg :: rest ∧ (op = opLdkey ∨ op = opLdiv) ∧ rest.length < arg.toNat

/-- ARG is LEN of the bytes it cuts off. -/
theorem exists_payload_of_length_le {arg : Byte} {rest : List Byte} (h : arg.toNat ≤ rest.length) :
    ∃ payload tail, payloadFits payload = true ∧ arg = BitVec.ofNat 8 payload.length ∧ rest = payload ++ tail := by
  have hlength : (rest.take arg.toNat).length = arg.toNat := List.length_take_of_le h
  refine ⟨rest.take arg.toNat, rest.drop arg.toNat, ?_, ?_, (List.take_append_drop _ _).symm⟩
  · have := arg.isLt
    simp only [payloadFits, hlength, decide_eq_true_eq]
    omega
  · rw [hlength, BitVec.ofNat_toNat, BitVec.setWidth_eq]

/-- A complete header of format L lacks payload or begins a packet. -/
theorem lacksPayload_or_packet {op : Byte} {command : List Byte → Instr}
    (hop : op = opLdkey ∧ command = .ldkey ∨ op = opLdiv ∧ command = .ldiv) (arg : Byte) (rest : List Byte) :
    LacksPayload (op :: arg :: rest) ∨
      ∃ p rest', p.wellFormed = true ∧ op :: arg :: rest = encodePacket p ++ rest' := by
  by_cases hlen : arg.toNat ≤ rest.length
  · obtain ⟨payload, tail, hfits, rfl, rfl⟩ := exists_payload_of_length_le hlen
    refine .inr ⟨.command (command payload), tail, ?_⟩
    obtain ⟨rfl, rfl⟩ | ⟨rfl, rfl⟩ := hop <;> exact ⟨hfits, rfl⟩
  · exact .inl ⟨op, arg, rest, rfl, hop.imp And.left And.left, Nat.lt_of_not_le hlen⟩

/-- A complete header of format N begins a packet, of the command or of an illegal header. -/
theorem packet_of_noOperand {op : Byte} {command : Instr}
    (hop : op = opClr ∧ command = .clr ∨ op = opRound ∧ command = .round) (arg : Byte) (rest : List Byte) :
    ∃ p, p.wellFormed = true ∧ op :: arg :: rest = encodePacket p ++ rest := by
  by_cases harg : arg = 0x00
  · subst harg
    refine ⟨.command command, ?_⟩
    obtain ⟨rfl, rfl⟩ | ⟨rfl, rfl⟩ := hop <;> exact ⟨rfl, rfl⟩
  · exact ⟨.illegal (.nonzeroArgument op arg), decide_eq_true ⟨hop.imp And.left And.left, harg⟩, rfl⟩

theorem stream_cases (bs : List Byte) :
    bs.length < 2 ∨ LacksPayload bs ∨ ∃ p rest, p.wellFormed = true ∧ bs = encodePacket p ++ rest := by
  match bs with
  | [] => exact .inl (by decide)
  | [_] => exact .inl (by simp)
  | op :: arg :: rest =>
    right
    by_cases hldkey : op = opLdkey
    · exact lacksPayload_or_packet (.inl ⟨hldkey, rfl⟩) arg rest
    by_cases hldiv : op = opLdiv
    · exact lacksPayload_or_packet (.inr ⟨hldiv, rfl⟩) arg rest
    right
    by_cases hclr : op = opClr
    · obtain ⟨p, hp⟩ := packet_of_noOperand (.inl ⟨hclr, rfl⟩) arg rest
      exact ⟨p, rest, hp⟩
    by_cases hround : op = opRound
    · obtain ⟨p, hp⟩ := packet_of_noOperand (.inr ⟨hround, rfl⟩) arg rest
      exact ⟨p, rest, hp⟩
    by_cases hxorb : op = opXorb
    · exact ⟨.command (.xorb arg), rest, rfl, by rw [hxorb]; rfl⟩
    · exact ⟨.illegal (.unknownOpcode op arg), rest, by simp [Packet.wellFormed, IllegalHeader.wellFormed, *], rfl⟩

theorem decode_of_length_lt {bs : List Byte} (h : bs.length < 2) : decode bs = .incomplete .header := by
  match bs with
  | [] => rfl
  | [_] => rfl
  | _ :: _ :: _ => simp at h

theorem decode_of_lacksPayload {bs : List Byte} (h : LacksPayload bs) : decode bs = .incomplete .payload := by
  obtain ⟨op, arg, rest, rfl, hop, hlen⟩ := h
  obtain rfl | rfl := hop <;> exact if_neg (Nat.not_le.mpr hlen)

/-- The decoder reads a packet exactly where the stream begins with the bytes of one. -/
theorem decode_eq_packet_iff {bs rest : List Byte} {p : Packet} :
    decode bs = .packet p rest ↔ p.wellFormed = true ∧ bs = encodePacket p ++ rest := by
  constructor
  · intro h
    obtain hshort | hlacks | ⟨q, rest', hq, rfl⟩ := stream_cases bs
    · rw [decode_of_length_lt hshort] at h
      cases h
    · rw [decode_of_lacksPayload hlacks] at h
      cases h
    · rw [decode_encodePacket_append hq] at h
      cases h
      exact ⟨hq, rfl⟩
  · rintro ⟨hp, rfl⟩
    exact decode_encodePacket_append hp rest

theorem decode_eq_missing_header_iff {bs : List Byte} : decode bs = .incomplete .header ↔ bs.length < 2 := by
  refine ⟨fun h => ?_, decode_of_length_lt⟩
  obtain hshort | hlacks | ⟨p, rest, hp, rfl⟩ := stream_cases bs
  · exact hshort
  · rw [decode_of_lacksPayload hlacks] at h
    cases h
  · rw [decode_encodePacket_append hp] at h
    cases h

theorem decode_eq_missing_payload_iff {bs : List Byte} : decode bs = .incomplete .payload ↔ LacksPayload bs := by
  refine ⟨fun h => ?_, decode_of_lacksPayload⟩
  obtain hshort | hlacks | ⟨p, rest, hp, rfl⟩ := stream_cases bs
  · rw [decode_of_length_lt hshort] at h
    cases h
  · exact hlacks
  · rw [decode_encodePacket_append hp] at h
    cases h

/-! The illegal headers (30_encoding.md R81). -/

/-- The header is one that R81 lists. -/
def ListedIllegal (op arg : Byte) : Prop :=
  op = 0x00 ∨ 0x06 ≤ op.toNat ∨ ((op = 0x01 ∨ op = 0x04) ∧ arg ≠ 0x00)

theorem wellFormed_unknownOpcode_iff (op arg : Byte) :
    (IllegalHeader.unknownOpcode op arg).wellFormed = true ↔ op = 0x00 ∨ 0x06 ≤ op.toNat := by
  simp only [IllegalHeader.wellFormed, opClr, opLdkey, opLdiv, opRound, opXorb, List.mem_cons, List.not_mem_nil,
    or_false, decide_eq_true_eq]
  bv_omega

theorem wellFormed_nonzeroArgument_iff (op arg : Byte) :
    (IllegalHeader.nonzeroArgument op arg).wellFormed = true ↔ (op = 0x01 ∨ op = 0x04) ∧ arg ≠ 0x00 :=
  decide_eq_true_iff

/-- An illegal header is a packet of its two bytes alone. -/
theorem decode_eq_illegal_iff {op arg : Byte} {rest rest' : List Byte} {why : IllegalHeader} :
    decode (op :: arg :: rest) = .packet (.illegal why) rest' ↔
      why.wellFormed = true ∧ why.bytes = [op, arg] ∧ rest' = rest := by
  rw [decode_eq_packet_iff]
  refine and_congr_right fun _ => ?_
  cases why <;> simp [encodePacket, IllegalHeader.bytes, eq_comm, and_assoc]

theorem exists_illegalHeader_iff (op arg : Byte) :
    (∃ why : IllegalHeader, why.wellFormed = true ∧ why.bytes = [op, arg]) ↔ ListedIllegal op arg := by
  constructor
  · rintro ⟨why, hwhy, hbytes⟩
    cases why with
    | unknownOpcode op' arg' =>
      cases hbytes
      exact or_assoc.mp (.inl ((wellFormed_unknownOpcode_iff op arg).mp hwhy))
    | nonzeroArgument op' arg' =>
      cases hbytes
      exact .inr (.inr ((wellFormed_nonzeroArgument_iff op arg).mp hwhy))
  · intro h
    obtain hop | harg := or_assoc.mpr h
    · exact ⟨_, (wellFormed_unknownOpcode_iff op arg).mpr hop, rfl⟩
    · exact ⟨_, (wellFormed_nonzeroArgument_iff op arg).mpr harg, rfl⟩

theorem exists_decode_illegal_iff (op arg : Byte) (rest : List Byte) :
    (∃ why rest', decode (op :: arg :: rest) = .packet (.illegal why) rest') ↔ ListedIllegal op arg := by
  simp only [← exists_illegalHeader_iff, decode_eq_illegal_iff]
  exact exists_congr fun why =>
    ⟨fun ⟨_, hwhy, hbytes, _⟩ => ⟨hwhy, hbytes⟩, fun ⟨hwhy, hbytes⟩ => ⟨rest, hwhy, hbytes, rfl⟩⟩

/-! The opcode map (30_encoding.md R74), its patterns written as headers. -/

theorem opcodeMap_eq : opcodeMap =
    [⟨0x01, .n, headerOf 0x01 0x00, 0xFFFF⟩, ⟨0x02, .l, headerOf 0x02 0x00, 0xFF00⟩,
     ⟨0x03, .l, headerOf 0x03 0x00, 0xFF00⟩, ⟨0x04, .n, headerOf 0x04 0x00, 0xFFFF⟩,
     ⟨0x05, .d, headerOf 0x05 0x00, 0xFF00⟩] := rfl

theorem opcodeMap_ops_nodup : (opcodeMap.map OpcodeRow.op).Nodup := by decide

/-- A row is selected by headers with its own OP only. -/
theorem op_eq_of_selects {r : OpcodeRow} (hr : r ∈ opcodeMap) {op arg : Byte}
    (h : r.selects (headerOf op arg) = true) : op = r.op := by
  rw [opcodeMap_eq] at hr
  simp only [List.mem_cons, List.not_mem_nil, or_false] at hr
  obtain rfl | rfl | rfl | rfl | rfl := hr
  all_goals
    simp only [selects_by_op, selects_by_header, Bool.and_eq_true, beq_iff_eq] at h
    simp only [h]

theorem no_row_selects_iff (op arg : Byte) :
    (∀ r ∈ opcodeMap, r.selects (headerOf op arg) = false) ↔ ListedIllegal op arg := by
  simp only [opcodeMap_eq, List.forall_mem_cons, List.not_mem_nil, false_imp_iff, implies_true, and_true, selects_by_op,
    selects_by_header, Bool.and_eq_false_iff, beq_eq_false_iff_ne, ListedIllegal]
  bv_omega

theorem encodesItsRow (i : Instr) : Laws.EncodesItsRow.Statement i := by
  cases i with
  | clr => exact Laws.EncodesItsRow.clr
  | ldkey payload => exact Laws.EncodesItsRow.ldkey payload
  | ldiv payload => exact Laws.EncodesItsRow.ldiv payload
  | round => exact Laws.EncodesItsRow.round
  | xorb data => exact Laws.EncodesItsRow.xorb data

end Sys2Proof

namespace Sys2Proof.Machine

/-! What every command answers, against the table of 45_session_control.md R166. -/

theorem exists_toList_of_length_eq {n : Nat} {bs : List Byte} (h : bs.length = n) :
    ∃ m : Vector Byte n, bs = m.toList := ⟨⟨bs.toArray, by simpa using h⟩, rfl⟩

theorem answer_ldkey_toList (key : KeyMaterial) (e : Engine) :
    answer (.ldkey key.toList) e = ⟨.ok, [], e.loadKey Config.params key⟩ := by
  simp only [answer, materialOf_toList]

theorem exec_ldkey_toList (key : KeyMaterial) (s : State) :
    exec (.ldkey key.toList) s =
      .next { engine := s.engine.loadKey Config.params key, rx := s.rx, tx := s.tx ++ [[0x00]] } := by
  rw [exec_eq_answer, answer_ldkey_toList]
  rfl

theorem answer_ldkey_of_length_ne {payload : List Byte} (h : payload.length ≠ 16) (e : Engine) :
    answer (.ldkey payload) e = ⟨.invalidKeySize, [], e⟩ := by
  simp only [answer, (materialOf_eq_none_iff keyBytes payload).mpr h]

theorem answer_ldiv_of_empty (payload : List Byte) {e : Engine} (hphase : e.phase = .empty) :
    answer (.ldiv payload) e = ⟨.notKeyed, [], e⟩ := if_pos hphase

theorem answer_ldiv_toList (iv : IvMaterial) {e : Engine} (hphase : e.phase ≠ .empty) :
    answer (.ldiv iv.toList) e = ⟨.ok, [], e.loadIv Config.params iv⟩ := by
  simp only [answer, if_neg hphase, materialOf_toList]

theorem answer_ldiv_of_length_ne {payload : List Byte} (h : payload.length ≠ 16) {e : Engine}
    (hphase : e.phase ≠ .empty) : answer (.ldiv payload) e = ⟨.invalidIVSize, [], e⟩ := by
  simp only [answer, if_neg hphase, (materialOf_eq_none_iff ivBytes payload).mpr h]

theorem Engine.supply_phase (p : Config.Params) (e : Engine) : (e.supply p).1.phase = e.phase := by
  obtain ⟨_, _, h⟩ | ⟨_, h⟩ := Engine.supply_cases p e <;> rw [h]
  rfl

/-- Outside phase EMPTY the table looks at the length of an LDIV alone. -/
theorem expectedStatus_ldiv (payload : List Byte) {ph : Phase} (h : ph ≠ .empty) :
    expectedStatus (.ldiv payload) ph = if payload.length = 16 then .ok else .invalidIVSize := by
  cases ph with
  | empty => exact absurd rfl h
  | keyed => rfl
  | primed => rfl

/-- Outside phase PRIMED the table has NotPrimed for ROUND and XORB. -/
theorem expectedStatus_streamCommand (c : Option Byte) {ph : Phase} (h : ph ≠ .primed) :
    expectedStatus (streamCommand c) ph = .notPrimed := by
  cases ph with
  | empty => cases c <;> rfl
  | keyed => cases c <;> rfl
  | primed => exact absurd rfl h

/-- An answer that fits the table: after success the right number of bytes and the right phase, after an error the
status alone and the engine as it was. -/
structure Answer.Fits (a : Answer) (i : Instr) (e : Engine) : Prop where
  status_eq : a.status = expectedStatus i e.phase
  of_ok : a.status = .ok → a.bytes.length = resultLength i ∧ a.engine.phase = phaseAfterSuccess i
  of_error : a.status ≠ .ok → a.bytes = [] ∧ a.engine = e

theorem Answer.fits_ok {i : Instr} {e e' : Engine} {bytes : List Byte} (hstatus : expectedStatus i e.phase = .ok)
    (hlength : bytes.length = resultLength i) (hphase : e'.phase = phaseAfterSuccess i) :
    Answer.Fits ⟨.ok, bytes, e'⟩ i e :=
  ⟨hstatus.symm, fun _ => ⟨hlength, hphase⟩, fun h => absurd rfl h⟩

theorem Answer.fits_error {i : Instr} {e : Engine} {st : Status} (hstatus : expectedStatus i e.phase = st)
    (hst : st ≠ .ok) : Answer.Fits ⟨st, [], e⟩ i e :=
  ⟨hstatus.symm, fun h => absurd h hst, fun _ => ⟨rfl, rfl⟩⟩

theorem answer_fits (i : Instr) (e : Engine) : (answer i e).Fits i e := by
  cases i with
  | clr => exact Answer.fits_ok rfl rfl rfl
  | ldkey payload =>
    by_cases hlen : payload.length = 16
    · obtain ⟨key, rfl⟩ := exists_toList_of_length_eq hlen
      rw [answer_ldkey_toList]
      exact Answer.fits_ok (if_pos hlen) rfl rfl
    · rw [answer_ldkey_of_length_ne hlen]
      exact Answer.fits_error (if_neg hlen) nofun
  | ldiv payload =>
    by_cases hphase : e.phase = .empty
    · rw [answer_ldiv_of_empty payload hphase]
      exact Answer.fits_error (by rw [hphase]; rfl) nofun
    · have hstatus := expectedStatus_ldiv payload hphase
      by_cases hlen : payload.length = 16
      · obtain ⟨iv, rfl⟩ := exists_toList_of_length_eq hlen
        rw [answer_ldiv_toList iv hphase]
        exact Answer.fits_ok (hstatus.trans (if_pos hlen)) rfl rfl
      · rw [answer_ldiv_of_length_ne hlen hphase]
        exact Answer.fits_error (hstatus.trans (if_neg hlen)) nofun
  | round =>
    by_cases hphase : e.phase = .primed
    · simp only [answer, if_pos hphase]
      exact Answer.fits_ok (by rw [hphase]; rfl) rfl hphase
    · simp only [answer, if_neg hphase]
      exact Answer.fits_error (expectedStatus_streamCommand none hphase) nofun
  | xorb data =>
    by_cases hphase : e.phase = .primed
    · simp only [answer, if_pos hphase]
      exact Answer.fits_ok (by rw [hphase]; rfl) rfl ((Engine.supply_phase Config.params e).trans hphase)
    · simp only [answer, if_neg hphase]
      exact Answer.fits_error (expectedStatus_streamCommand (some data) hphase) nofun

/-! The form of a response (30_encoding.md R75, 60_exceptions.md R170). -/

/-- A length check of the table ends in OK or in its own error. -/
theorem ite_ok_ne_lengthMismatch {c : Prop} [Decidable c] {st : Status} (h : st ≠ .lengthMismatch) :
    (if c then .ok else st) ≠ Status.lengthMismatch := by
  split
  · nofun
  · exact h

theorem expectedStatus_ne_lengthMismatch (i : Instr) (ph : Phase) : expectedStatus i ph ≠ .lengthMismatch := by
  cases i with
  | clr => nofun
  | ldkey payload => exact ite_ok_ne_lengthMismatch nofun
  | ldiv payload =>
    cases ph with
    | empty => nofun
    | keyed => exact ite_ok_ne_lengthMismatch nofun
    | primed => exact ite_ok_ne_lengthMismatch nofun
  | round => cases ph <;> nofun
  | xorb data => cases ph <;> nofun

theorem resultLength_values (i : Instr) : resultLength i = 0 ∨ resultLength i = 1 ∨ resultLength i = 8 := by
  cases i <;> simp [resultLength]

theorem responseWellFormed_ok {bytes : List Byte} (h : bytes.length = 0 ∨ bytes.length = 1 ∨ bytes.length = 8) :
    responseWellFormed (Status.ok.code :: bytes) = true := by
  simpa [responseWellFormed, Status.code, or_assoc] using h

theorem responseWellFormed_error {st : Status} (hok : st ≠ .ok) (hlen : st ≠ .lengthMismatch) :
    responseWellFormed [st.code] = true := by
  cases st with
  | ok => exact absurd rfl hok
  | lengthMismatch => exact absurd rfl hlen
  | invalidKeySize => rfl
  | invalidIVSize => rfl
  | notKeyed => rfl
  | notPrimed => rfl
  | illegalCommand => rfl

theorem answer_responseWellFormed (i : Instr) (e : Engine) :
    responseWellFormed ((answer i e).status.code :: (answer i e).bytes) = true := by
  obtain ⟨hstatus, hok, herror⟩ := answer_fits i e
  by_cases h : (answer i e).status = .ok
  · obtain ⟨hlength, _⟩ := hok h
    rw [h]
    exact responseWellFormed_ok (hlength ▸ resultLength_values i)
  · obtain ⟨hbytes, _⟩ := herror h
    rw [hbytes]
    exact responseWellFormed_error h (hstatus ▸ expectedStatus_ne_lengthMismatch i e.phase)

/-! Commands executed while each is answered OK (30_encoding.md R84). -/

theorem State.lastResponseOk_after (s : State) (a : Answer) :
    (s.after a).lastResponseOk = true ↔ a.status = .ok := by
  simp only [State.lastResponseOk, State.after, List.getLast?_concat, beq_iff_eq]
  exact a.status.code_eq_zero_iff

theorem execWhileOk_cons_of_ok {i : Instr} {s : State} (h : (answer i s.engine).status = .ok) (is : List Instr) :
    execWhileOk (i :: is) s = execWhileOk is (s.after (answer i s.engine)) := by
  simp only [execWhileOk, exec_eq_answer, (s.lastResponseOk_after _).mpr h, if_true]

theorem execWhileOk_cons_of_error {i : Instr} {s : State} (h : (answer i s.engine).status ≠ .ok) (is : List Instr) :
    execWhileOk (i :: is) s = .next (s.after (answer i s.engine)) := by
  simp only [execWhileOk, exec_eq_answer, mt (s.lastResponseOk_after _).mp h, if_false, Bool.false_eq_true]

/-- The last command of a list stops it whatever it is answered. -/
theorem execWhileOk_singleton (i : Instr) (s : State) :
    execWhileOk [i] s = .next (s.after (answer i s.engine)) := by
  by_cases h : (answer i s.engine).status = .ok
  · rw [execWhileOk_cons_of_ok h]; rfl
  · exact execWhileOk_cons_of_error h []

/-! The pointer OFF through LDKEY and LDIV. -/

theorem Engine.loadKey_off (p : Config.Params) (key : KeyMaterial) (e : Engine) : (e.loadKey p key).off = 0 := by
  obtain ⟨reg, h⟩ := Engine.setWords_frame (e.clearRegister.setCounter 0).dropBlock (keyWrites p key)
  simp only [Engine.loadKey, h]
  rfl

theorem mixStage_off (p : Config.Params) (s : Engine × Carry) : (mixStage p s).1.off = s.1.off + 28 := by
  obtain ⟨_, h⟩ := mixStage_frame p s
  rw [h]

/-- Every stage adds MIX_ROT to OFF (42_iv_scheduler.md R115, R117). -/
theorem mixStages_off (p : Config.Params) (n : Nat) (s : Engine × Carry) :
    (mixStages p n s).1.off = s.1.off + BitVec.ofNat 5 (28 * n) := by
  induction n generalizing s with
  | zero => simp [mixStages]
  | succ n ih =>
    rw [mixStages, ih, mixStage_off, Nat.mul_succ, Nat.add_comm (28 * n), BitVec.ofNat_add, ← BitVec.add_assoc]
    rfl

/-- The sixteen stages of an LDIV turn the register around whole times. -/
theorem Engine.loadIv_off (p : Config.Params) (iv : IvMaterial) (e : Engine) :
    (e.loadIv p iv).off = e.restoreUnlessFresh.off := by
  obtain ⟨_, hlayout⟩ := Engine.applyIvLayout_frame p iv e.restoreUnlessFresh
  have hturns : BitVec.ofNat 5 (28 * nStages) = 0#5 := rfl
  calc (e.loadIv p iv).off
      = (e.mixIv p iv).1.off := by rw [Engine.loadIv, Engine.primeWith_eq]
    _ = (e.restoreUnlessFresh.applyIvLayout p iv).off + BitVec.ofNat 5 (28 * nStages) := by
        rw [Engine.mixIv, mixStages_off]
    _ = e.restoreUnlessFresh.off := by rw [hlayout, hturns, BitVec.add_zero]

/-! NEWSESSION (30_encoding.md R84). -/

/-- With a key of sixteen bytes NEWSESSION is its LDIV on the state its LDKEY leaves. -/
theorem newSession_run_toList (key : KeyMaterial) (iv : List Byte) (s : State) :
    (Pseudo.newSession key.toList iv).run s =
      .next ((s.after ⟨.ok, [], s.engine.loadKey Config.params key⟩).after
        (answer (.ldiv iv) (s.engine.loadKey Config.params key))) := by
  have hkey := answer_ldkey_toList key s.engine
  calc (Pseudo.newSession key.toList iv).run s
      = execWhileOk [.ldiv iv] (s.after (answer (.ldkey key.toList) s.engine)) :=
        execWhileOk_cons_of_ok (by rw [hkey]) _
    _ = _ := by rw [hkey, execWhileOk_singleton]; rfl

/-- With an IV of another length the engine stays as LDKEY left it. -/
theorem newSession_run_invalidIv (key : KeyMaterial) {iv : List Byte} (hiv : iv.length ≠ 16) (s : State) :
    (Pseudo.newSession key.toList iv).run s =
      .next { engine := s.engine.loadKey Config.params key
              rx := s.rx
              tx := s.tx ++ [[0x00], [0x02]] } := by
  have hphase : (s.engine.loadKey Config.params key).phase ≠ .empty := nofun
  rw [newSession_run_toList, answer_ldiv_of_length_ne hiv hphase]
  simp [State.after, Status.code]

/-- With key and IV of sixteen bytes both commands succeed. -/
theorem newSession_run_material (key : KeyMaterial) (iv : IvMaterial) (s : State) :
    (Pseudo.newSession key.toList iv.toList).run s =
      .next { engine := (s.engine.loadKey Config.params key).loadIv Config.params iv
              rx := s.rx
              tx := s.tx ++ [[0x00], [0x00]] } := by
  have hphase : (s.engine.loadKey Config.params key).phase ≠ .empty := nofun
  rw [newSession_run_toList, answer_ldiv_toList iv hphase]
  simp [State.after, Status.code]

/-! The obligations of 30_encoding.md. -/

/-- Settles O1: the decoder takes the bytes of a packet off the front, `decode_encodePacket_append`. -/
theorem encodedPacketsDecodeBack : Obligations.EncodedPacketsDecodeBack :=
  fun _ rest hp => decode_encodePacket_append hp rest

/-- Settles O2: a stream on which the decoder does not wait begins with the bytes of a packet. -/
theorem decodedPacketsAreTheirBytes : Obligations.DecodedPacketsAreTheirBytes :=
  fun _ _ _ h => decode_eq_packet_iff.mp h

/-- Settles O3, by the three kinds of byte stream. -/
theorem decoderWaitsExactlyOnPartialPackets : Obligations.DecoderWaitsExactlyOnPartialPackets :=
  fun _ => ⟨decode_eq_missing_header_iff, decode_eq_missing_payload_iff⟩

/-- Settles O4: the list of R81 stands between the decoder and the opcode map. -/
theorem illegalHeadersAreThoseListed : Obligations.IllegalHeadersAreThoseListed := by
  intro op arg rest
  have hlisted := exists_decode_illegal_iff op arg rest
  refine ⟨hlisted, hlisted.trans (no_row_selects_iff op arg).symm, fun why rest' h => ?_⟩
  obtain ⟨_, _, hrest⟩ := decode_eq_illegal_iff.mp h
  exact hrest

/-- Settles O5: the rows have different OPs, and the packet of a command selects the command's row. -/
theorem decoderFollowsTheOpcodeMap : Obligations.DecoderFollowsTheOpcodeMap := by
  refine ⟨fun h => ?_, fun op arg rest rest' i h => ?_⟩
  · obtain ⟨op, arg, rfl⟩ := headerOf_surjective h
    calc (opcodeMap.filter fun r => r.selects (headerOf op arg)).length
        = opcodeMap.countP fun r => r.selects (headerOf op arg) := List.countP_eq_length_filter.symm
      _ ≤ opcodeMap.countP fun r => r.op == op :=
          List.countP_mono_left fun r hr h => beq_iff_eq.mpr (op_eq_of_selects hr h).symm
      _ = (opcodeMap.map OpcodeRow.op).count op := by rw [List.count, List.countP_map]; rfl
      _ ≤ 1 := List.nodup_iff_count_le_one.mp opcodeMap_ops_nodup op
  · obtain ⟨hi, hbytes⟩ := decode_eq_packet_iff.mp h
    obtain ⟨op', arg', hencode, hmem, hselects, _⟩ := encodesItsRow i hi
    rw [encodePacket, hencode] at hbytes
    cases hbytes
    exact ⟨hmem, hselects⟩

/-- Settles O11: the bytes consumed are a packet's, and the response is the answer of a command or the error of an
illegal header. -/
theorem onePacketOneResponse : Obligations.OnePacketOneResponse := by
  intro s t h
  obtain ⟨m, hdecode, rfl⟩ | ⟨i, rest, hdecode, hexec⟩ | ⟨why, rest, hdecode, rfl⟩ := step_cases h
  · exact .inl ⟨rfl, m, hdecode⟩
  · obtain ⟨hp, hbytes⟩ := decode_eq_packet_iff.mp hdecode
    rw [exec_eq_answer] at hexec
    cases hexec
    exact .inr ⟨_, _, hp, hbytes, rfl, answer_responseWellFormed i s.engine⟩
  · obtain ⟨hp, hbytes⟩ := decode_eq_packet_iff.mp hdecode
    exact .inr ⟨_, _, hp, hbytes, rfl, rfl⟩

/-- Settles O48: the state after a command is its answer, which fits the table. -/
theorem statusOfEveryCommandInEveryPhase : Obligations.StatusOfEveryCommandInEveryPhase := by
  intro i s
  obtain ⟨hstatus, hok, herror⟩ := answer_fits i s.engine
  rw [← hstatus]
  exact ⟨_, _, exec_eq_answer i s, rfl, rfl, hok, herror⟩

/-- Settles O54: a refused LDKEY ends NEWSESSION, and a good one leaves phase KEYED, in which the LDIV is refused for
its length. -/
theorem newSessionFailures : Obligations.NewSessionFailures := by
  intro key iv s
  refine ⟨fun hkey => ?_, fun hkey hiv => ?_⟩
  · have hanswer := answer_ldkey_of_length_ne hkey s.engine
    have hrun : (Pseudo.newSession key iv).run s = .next (s.after (answer (.ldkey key) s.engine)) :=
      execWhileOk_cons_of_error (by rw [hanswer]; nofun) _
    rw [hrun, hanswer]
    rfl
  · obtain ⟨key, rfl⟩ := exists_toList_of_length_eq hkey
    exact ⟨_, newSession_run_invalidIv key hiv s, rfl, exec_ldkey_toList key s, rfl⟩

/-- Settles O55: LDKEY forgets all but the ROM, and LDIV is a function of the engine it finds. -/
theorem newSessionIsDeterministic : Obligations.NewSessionIsDeterministic := by
  intro key iv s t hrom
  have hkeyed : s.engine.loadKey Config.params key = t.engine.loadKey Config.params key := by
    rw [Engine.loadKey_eq, Engine.loadKey_eq _ _ t.engine, hrom]
  have hfresh : (s.engine.loadKey Config.params key).restoreUnlessFresh = s.engine.loadKey Config.params key :=
    if_pos rfl
  obtain ⟨_, hphase, hksPos, _⟩ := Engine.loadIv_flags Config.params iv (s.engine.loadKey Config.params key)
  have hoff : ((s.engine.loadKey Config.params key).loadIv Config.params iv).off = 0 := by
    rw [Engine.loadIv_off, hfresh, Engine.loadKey_off]
  exact ⟨_, _, newSession_run_material key iv s, rfl, newSession_run_material key iv t, rfl,
    congrArg (Engine.loadIv Config.params iv) hkeyed, hphase, hoff, hksPos⟩

/-- Settles O6: each packet is one evaluation of the decoder. -/
theorem wordsDecodeAsWritten : Obligations.WordsDecodeAsWritten := ⟨rfl, rfl, rfl, rfl, rfl, rfl, rfl⟩

/-- Settles O7: serving the packet of a command is executing the command. -/
theorem stepRunsTheDecodedCommand : Obligations.StepRunsTheDecodedCommand := by
  intro s i rest h
  simp only [step, serveNext, State.fetch, h, runPacket]

end Sys2Proof.Machine
end

section
/-! Proofs of the family 40_nlfsr_addressing.md: the circular register, its two accessors and the pointers that rounds
and rotations move. First the facts about the accessors and about repeated moves, then the obligations. -/

namespace Sys2Proof.Machine

/-! The logical write and the logical read (40_nlfsr_addressing.md R90, R91). -/

/-- Logical indices that agree modulo 32 name the same cell. -/
theorem physIndex_congr (off : BitVec offBits) {i j : Nat} (h : i % 32 = j % 32) : physIndex off i = physIndex off j :=
  (physIndex_eq_iff off i j).mpr h

theorem Engine.wordAt_congr (e : Engine) {i j : Nat} (h : i % 32 = j % 32) : e.wordAt i = e.wordAt j := by
  simp only [Engine.wordAt, physIndex_congr e.off h]

/-- A logical read under another offset is the physical read of the cell the offset gives. -/
theorem Engine.wordAt_of_physIndex_eq {off : BitVec offBits} {i : Nat} {q : Fin 32} (h : physIndex off i = q)
    (e : Engine) : { e with off := off }.wordAt i = e.reg[q] := by
  subst h
  rfl

theorem Engine.setWordAt_congr (e : Engine) {i j : Nat} (h : i % 32 = j % 32) (v : Word) :
    e.setWordAt i v = e.setWordAt j v := by
  simp only [Engine.setWordAt, physIndex_congr e.off h]

/-- A logical write is read back at the indices of its cell, and seen at no other. -/
theorem Engine.wordAt_setWordAt (e : Engine) (i j : Nat) (v : Word) :
    (e.setWordAt i v).wordAt j = if j % 32 = i % 32 then v else e.wordAt j := by
  have hcell : physIndex e.off i = physIndex e.off j ↔ j % 32 = i % 32 := (physIndex_eq_iff e.off i j).trans eq_comm
  simp only [Engine.wordAt, Engine.setWordAt_reg, Engine.setWordAt_off, getElem_set_physIndex, hcell]

/-! The rotation (40_nlfsr_addressing.md R92). -/

/-- The rotation in numbers: the sum is taken modulo NWORDS. -/
theorem Engine.rotate_eq (e : Engine) (k : BitVec offBits) :
    e.rotate k = { e with off := BitVec.ofNat offBits ((e.off.toNat + k.toNat) % 32) } := by
  rw [← offset_add, BitVec.ofNat_toNat, BitVec.setWidth_eq, Engine.rotate]

theorem Engine.rotate_zero (e : Engine) : e.rotate 0#offBits = e := by
  rw [Engine.rotate, BitVec.add_zero]

theorem Engine.rotate_rotate (e : Engine) (k l : BitVec offBits) : (e.rotate k).rotate l = e.rotate (k + l) := by
  simp only [Engine.rotate, BitVec.add_assoc]

/-- Rotating `n` times by `k` is rotating once by `k * n`. -/
theorem Engine.rotate_iterate (k : BitVec offBits) (n : Nat) (e : Engine) :
    (fun x : Engine => x.rotate k)^[n] e = e.rotate (k * BitVec.ofNat offBits n) := by
  induction n with
  | zero => rw [Function.iterate_zero_apply, BitVec.mul_zero, Engine.rotate_zero]
  | succ n ih =>
    rw [Function.iterate_succ_apply', ih, Engine.rotate_rotate, BitVec.ofNat_add, BitVec.mul_add, BitVec.mul_one]

/-- Rotations that together turn the register around whole times change nothing. -/
theorem Engine.rotate_iterate_of_mul_eq_zero {k : BitVec offBits} {n : Nat} (h : k * BitVec.ofNat offBits n = 0#offBits)
    (e : Engine) : (fun x : Engine => x.rotate k)^[n] e = e := by
  rw [Engine.rotate_iterate, h, Engine.rotate_zero]

/-! Counting rounds (70_reset_and_hazards.md R201). -/

theorem Engine.rounds_succ (p : Config.Params) (n : Nat) (e : Engine) : e.rounds p (n + 1) = (e.rounds p n).regen p :=
  Function.iterate_succ_apply' _ n e

theorem Engine.rounds_ctr (p : Config.Params) (n : Nat) (e : Engine) :
    (e.rounds p n).ctr = e.ctr + BitVec.ofNat ctrBits n := by
  induction n with
  | zero => exact (BitVec.add_zero e.ctr).symm
  | succ n ih =>
    obtain ⟨hctr, _, _⟩ := (e.rounds p n).regen_counters p
    rw [Engine.rounds_succ, hctr, ih, BitVec.ofNat_add, BitVec.add_assoc]
    rfl

theorem Engine.rounds_off (p : Config.Params) (n : Nat) (e : Engine) :
    (e.rounds p n).off = e.off + BitVec.ofNat offBits (2 * n) := by
  induction n with
  | zero => exact (BitVec.add_zero e.off).symm
  | succ n ih =>
    obtain ⟨_, hoff, _⟩ := (e.rounds p n).regen_counters p
    rw [Engine.rounds_succ, hoff, ih, Nat.mul_succ, BitVec.ofNat_add, BitVec.add_assoc]
    rfl

/-! The obligations of 40_nlfsr_addressing.md. -/

/-- Settles O42: every round adds one to CTR and two to OFF, and 2^64 and 32 are zero in their widths. -/
theorem roundsAreCounted : Obligations.RoundsAreCounted := by
  intro p e
  have hoff : BitVec.ofNat 5 (2 * 16) = 0#5 := rfl
  have hctr : BitVec.ofNat 64 (2 ^ 64) = 0#64 := rfl
  refine ⟨fun n => ⟨e.rounds_ctr p n, e.rounds_off p n⟩, ?_, ?_⟩
  · rw [Engine.rounds_off, hoff, BitVec.add_zero]
  · rw [Engine.rounds_ctr, hctr, BitVec.add_zero]

/-- Settles O51: the write sets the cell its index names, and indices name one cell exactly when they agree
modulo 32. -/
theorem logicalWriteThenRead : Obligations.LogicalWriteThenRead :=
  fun e i j v => ⟨e.wordAt_setWordAt i j v, rfl, e.setWordAt_congr (Nat.add_mod_right i 32) v, rfl⟩

/-- Settles O53: the read and the rotation are the rules' by definition, index 32 names the cell of index 0, and both
sixteenfold rotations turn the register around whole times. -/
theorem accessorCornerCases : Obligations.AccessorCornerCases := by
  intro e
  obtain ⟨h30, h31, h0, h4⟩ :
      (30 : BitVec 5) + 2 = 0 ∧ (31 : BitVec 5) + 28 = 27 ∧ (0 : BitVec 5) + 28 = 28 ∧ (4 : BitVec 5) + 28 = 0 := by
    decide
  exact ⟨fun _ => rfl, e.wordAt_congr rfl, e.rotate_eq,
    Engine.wordAt_of_physIndex_eq (q := 3) (by decide) e, Engine.wordAt_of_physIndex_eq (q := 16) (by decide) e,
    Engine.wordAt_of_physIndex_eq (q := 30) (by decide) e, h30, h31, h0, h4,
    Engine.rotate_iterate_of_mul_eq_zero rfl e, Engine.rotate_iterate_of_mul_eq_zero rfl e⟩

end Sys2Proof.Machine
end

section
/-! Proofs of the family 41_key_scheduler.md: what LDKEY leaves. First the logical writes of the key layout as the cells
of the key image, then the engine after LDKEY, then the obligation. -/

namespace Sys2Proof.Machine

/-! The key layout (41_key_scheduler.md R101, R103). -/

/-- A list of logical writes at OFF = 0, one for each cell of a list: each cell named gets its own word, and no other
changes. -/
theorem Engine.setWords_of_off_zero (v : Fin 32 → Word) (cells : List (Fin 32)) {e : Engine} (hoff : e.off = 0) :
    e.setWords (cells.map fun q => (q.val, v q)) =
      { e with reg := Vector.ofFn fun q => if q ∈ cells then v q else e.reg[q] } := by
  rw [Engine.setWords, List.foldl_map, Engine.foldl_setWordAt_of_off_zero v cells hoff]

/-- The cells that the key layout writes. -/
def keyLayoutCells : List (Fin 32) := keyLayout.map fun w => Fin.ofNat 32 w.1

/-- The key image holds, in the cell of each entry of the key layout, the word that the entry loads. -/
theorem keyImage_getElem_of_mem_keyLayout (load : Config.WordLoad) (key : KeyMaterial) :
    ∀ w ∈ keyLayout, (keyImage key)[Fin.ofNat 32 w.1] = wordLoad load key w.2 := by
  cases load
  simp [keyLayout, keyImage, keyImageOf, wordLoad]

/-- Each write of the key layout writes the word that the key image has in its cell. -/
theorem keyWrites_eq (p : Config.Params) (key : KeyMaterial) :
    keyWrites p key = keyLayoutCells.map fun q => (q.val, (keyImage key)[q]) := by
  have hindex : ∀ w ∈ keyLayout, (Fin.ofNat 32 w.1).val = w.1 := by decide
  rw [keyWrites, keyLayoutCells, List.map_map]
  refine List.map_congr_left fun w hw => ?_
  rw [Function.comp_apply, hindex w hw, keyImage_getElem_of_mem_keyLayout p.wordLoad key w hw]

/-- The cells that the key layout does not write are words 8-11 and 24-27. -/
theorem mem_of_notMem_keyLayoutCells :
    ∀ q : Fin 32, q ∉ keyLayoutCells → q ∈ ([8, 9, 10, 11, 24, 25, 26, 27] : List (Fin 32)) := by
  decide

/-- The key image is zero in the cells that the key layout does not write. -/
theorem keyImage_eq_zero_of_notMem (key : KeyMaterial) {q : Fin 32} (hq : q ∉ keyLayoutCells) :
    (keyImage key)[q] = 0 := by
  have hzero : ∀ r ∈ ([8, 9, 10, 11, 24, 25, 26, 27] : List (Fin 32)), (keyImage key)[r] = 0 := by
    simp [keyImage, keyImageOf]
  exact hzero q (mem_of_notMem_keyLayoutCells q hq)

/-- On a cleared register the key layout lays out the key image. -/
theorem Engine.setWords_keyWrites (p : Config.Params) (key : KeyMaterial) {e : Engine} (hoff : e.off = 0)
    (hreg : e.reg = Vector.replicate 32 0) : e.setWords (keyWrites p key) = { e with reg := keyImage key } := by
  have hcells : (Vector.ofFn fun q => if q ∈ keyLayoutCells then (keyImage key)[q] else e.reg[q]) = keyImage key := by
    ext i hi : 1
    rw [Vector.getElem_ofFn]
    split
    case isTrue => rfl
    case isFalse hq => simpa [hreg] using (keyImage_eq_zero_of_notMem key hq).symm
  rw [keyWrites_eq, Engine.setWords_of_off_zero _ _ hoff, hcells]

/-! The engine after LDKEY (41_key_scheduler.md R100, R102). -/

/-- The engine that LDKEY leaves, with nothing of the old one but its ROM. -/
theorem Engine.loadKey_eq_keyImage (p : Config.Params) (key : KeyMaterial) (e : Engine) :
    e.loadKey p key =
      { reg := keyImage key, off := 0, ctr := 0, keySize := 128, fresh := true, snap := keyImage key
        ksBuf := Vector.replicate 8 0, ksPos := 8, phase := .keyed, rom := e.rom } := by
  have hlayout : ((e.clearRegister.setCounter 0).dropBlock).setWords (keyWrites p key) =
      { (e.clearRegister.setCounter 0).dropBlock with reg := keyImage key } :=
    Engine.setWords_keyWrites p key rfl rfl
  rw [Engine.loadKey, hlayout]
  rfl

/-! The obligation of 41_key_scheduler.md. -/

/-- Settles O21: sixteen bytes are key material, which LDKEY answers with OK and the engine above; the worked example
is the key image evaluated. -/
theorem ldkeyLaysOutTheKey : Obligations.LdkeyLaysOutTheKey := by
  refine ⟨fun key s => ?_, rfl⟩
  rw [exec_ldkey_toList, Engine.loadKey_eq_keyImage]

end Sys2Proof.Machine
end

section
/-! Proofs of the family 42_iv_scheduler.md: what LDIV leaves. First the IV layout seen one logical word at a time, then
the mixing stage in the words of before its rotation, then the engine after LDIV, then the obligations. -/

namespace Sys2Proof.Machine

/-! One entry of the IV layout (42_iv_scheduler.md R112). -/

/-- What an entry of the IV layout makes of the word it names. -/
def ivEntryWord (p : Config.Params) (iv : IvMaterial) (entry : Config.LayoutEntry) (old : Word) : Word :=
  match entry.mode with
  | .write => wordLoad p.wordLoad iv (wordIndexOfByte entry.ivByte)
  | .xor => old ^^^ wordLoad p.wordLoad iv (wordIndexOfByte entry.ivByte)

theorem ivEntryWord_of_write (p : Config.Params) (iv : IvMaterial) {entry : Config.LayoutEntry}
    (hmode : entry.mode = .write) (old : Word) :
    ivEntryWord p iv entry old = wordLoad p.wordLoad iv (wordIndexOfByte entry.ivByte) := by
  simp only [ivEntryWord, hmode]

theorem Engine.applyIvEntry_eq (p : Config.Params) (iv : IvMaterial) (e : Engine) (entry : Config.LayoutEntry) :
    e.applyIvEntry p iv entry = e.setWordAt entry.word (ivEntryWord p iv entry (e.wordAt entry.word)) := by
  unfold Engine.applyIvEntry ivEntryWord
  cases entry.mode <;> rfl

theorem Engine.wordAt_applyIvEntry_self (p : Config.Params) (iv : IvMaterial) (e : Engine)
    (entry : Config.LayoutEntry) :
    (e.applyIvEntry p iv entry).wordAt entry.word = ivEntryWord p iv entry (e.wordAt entry.word) := by
  rw [Engine.applyIvEntry_eq, Engine.wordAt_setWordAt, if_pos rfl]

theorem Engine.wordAt_applyIvEntry_of_ne (p : Config.Params) (iv : IvMaterial) (e : Engine)
    {entry : Config.LayoutEntry} {w : Fin 32} (h : entry.word ≠ w) :
    (e.applyIvEntry p iv entry).wordAt w = e.wordAt w := by
  have hcell : w.val % 32 ≠ entry.word.val % 32 := fun hmod =>
    h (Fin.ext (by rw [← Nat.mod_eq_of_lt entry.word.isLt, ← Nat.mod_eq_of_lt w.isLt]; exact hmod.symm))
  rw [Engine.applyIvEntry_eq, Engine.wordAt_setWordAt, if_neg hcell]

/-! A list of entries, in list order. -/

theorem Engine.wordAt_foldl_applyIvEntry_of_forall_ne (p : Config.Params) (iv : IvMaterial) {w : Fin 32}
    {entries : List Config.LayoutEntry} (h : ∀ entry ∈ entries, entry.word ≠ w) (e : Engine) :
    (entries.foldl (Engine.applyIvEntry p iv) e).wordAt w = e.wordAt w := by
  induction entries generalizing e with
  | nil => rfl
  | cons entry entries ih =>
    obtain ⟨hne, hrest⟩ := List.forall_mem_cons.mp h
    rw [List.foldl_cons, ih hrest, Engine.wordAt_applyIvEntry_of_ne p iv e hne]

/-- A word that entries name, all of them to write it, ends as the word the last of them loads. -/
theorem Engine.exists_wordAt_foldl_applyIvEntry_of_write (p : Config.Params) (iv : IvMaterial) {w : Fin 32}
    {entries : List Config.LayoutEntry} (hmode : ∀ entry ∈ entries, entry.word = w → entry.mode = .write)
    (hmem : ∃ entry ∈ entries, entry.word = w) :
    ∃ j, ∀ e : Engine, (entries.foldl (Engine.applyIvEntry p iv) e).wordAt w = wordLoad p.wordLoad iv j := by
  induction entries with
  | nil => simp at hmem
  | cons entry entries ih =>
    obtain ⟨hhead, htail⟩ := List.forall_mem_cons.mp hmode
    by_cases hlater : ∃ entry ∈ entries, entry.word = w
    · obtain ⟨j, hj⟩ := ih htail hlater
      exact ⟨j, fun e => hj (e.applyIvEntry p iv entry)⟩
    · have hlast : ∀ later ∈ entries, later.word ≠ w := fun later hin heq => hlater ⟨later, hin, heq⟩
      have hword : entry.word = w := by simpa [hlater] using hmem
      refine ⟨wordIndexOfByte entry.ivByte, fun e => ?_⟩
      rw [List.foldl_cons, Engine.wordAt_foldl_applyIvEntry_of_forall_ne p iv hlast, ← hword,
        Engine.wordAt_applyIvEntry_self, ivEntryWord_of_write p iv (hhead hword)]

/-- Where every word is named at most once, the order of the entries is immaterial: a word ends as its one entry makes
it. -/
theorem Engine.wordAt_foldl_applyIvEntry_of_nodup (p : Config.Params) (iv : IvMaterial)
    {entries : List Config.LayoutEntry} (hnodup : (entries.map (·.word)).Nodup) {entry : Config.LayoutEntry}
    (hmem : entry ∈ entries) (e : Engine) :
    (entries.foldl (Engine.applyIvEntry p iv) e).wordAt entry.word =
      ivEntryWord p iv entry (e.wordAt entry.word) := by
  induction entries generalizing e with
  | nil => simp at hmem
  | cons first entries ih =>
    rw [List.map_cons, List.nodup_cons, List.mem_map] at hnodup
    obtain ⟨hfirst, hrest⟩ := hnodup
    obtain rfl | hlater := List.mem_cons.mp hmem
    · have hne : ∀ later ∈ entries, later.word ≠ entry.word := fun later hin heq => hfirst ⟨later, hin, heq⟩
      rw [List.foldl_cons, Engine.wordAt_foldl_applyIvEntry_of_forall_ne p iv hne,
        Engine.wordAt_applyIvEntry_self]
    · have hne : first.word ≠ entry.word := fun heq => hfirst ⟨entry, hlater, heq.symm⟩
      rw [List.foldl_cons, ih hrest hlater, Engine.wordAt_applyIvEntry_of_ne p iv e hne]

/-! Which words an admissible IV layout names (42_iv_scheduler.md R112). -/

theorem word_mem_layoutWords (p : Config.Params) {entry : Config.LayoutEntry} (h : entry ∈ p.ivLayout) :
    entry.word ∈ Config.layoutWords entry.mode := by
  obtain ⟨hentries, _⟩ := Bool.and_eq_true_iff.mp p.ivLayout_admissible
  obtain ⟨hword, _⟩ := Bool.and_eq_true_iff.mp (List.all_eq_true.mp hentries entry h)
  exact List.contains_iff_mem.mp hword

theorem exists_entry_of_mem_layoutWords (p : Config.Params) (m : Config.LayoutMode) {w : Fin 32}
    (h : w ∈ Config.layoutWords m) : ∃ entry ∈ p.ivLayout, entry.mode = m ∧ entry.word = w := by
  obtain ⟨_, hmodes⟩ := Bool.and_eq_true_iff.mp p.ivLayout_admissible
  have hm : m ∈ [Config.LayoutMode.write, .xor] := by cases m <;> decide
  simpa using List.all_eq_true.mp (List.all_eq_true.mp hmodes m hm) w h

/-- The two sets share no word. -/
theorem mode_eq_write_of_mem_layoutWords {w : Fin 32} (hw : w ∈ Config.layoutWords .write)
    {m : Config.LayoutMode} (h : w ∈ Config.layoutWords m) : m = .write := by
  cases m with
  | write => rfl
  | xor => exact absurd h (by revert w; decide)

/-- An admissible IV layout leaves every word outside the two sets. -/
theorem Engine.wordAt_applyIvLayout_of_notMem (p : Config.Params) (iv : IvMaterial) (e : Engine) {w : Fin 32}
    (h : ∀ m, w ∉ Config.layoutWords m) : (e.applyIvLayout p iv).wordAt w = e.wordAt w :=
  Engine.wordAt_foldl_applyIvEntry_of_forall_ne p iv
    (fun entry hentry heq => h entry.mode (by rw [← heq]; exact word_mem_layoutWords p hentry)) e

/-- An admissible IV layout loads every word of the WRITE set, whatever the register holds. -/
theorem Engine.exists_wordAt_applyIvLayout (p : Config.Params) (iv : IvMaterial) {w : Fin 32}
    (h : w ∈ Config.layoutWords .write) :
    ∃ j, ∀ e : Engine, (e.applyIvLayout p iv).wordAt w = wordLoad p.wordLoad iv j := by
  obtain ⟨entry, hentry, _, hword⟩ := exists_entry_of_mem_layoutWords p .write h
  exact Engine.exists_wordAt_foldl_applyIvEntry_of_write p iv
    (fun x hx hxw => mode_eq_write_of_mem_layoutWords h (hxw ▸ word_mem_layoutWords p hx)) ⟨entry, hentry, hword⟩

/-! The default IV layout (42_iv_scheduler.md R113). -/

/-- The default entry of word `w` loads the IV word `w mod 4`. -/
theorem wordIndexOfByte_defaultEntry (m : Config.LayoutMode) (w : Fin 32) :
    wordIndexOfByte (Config.defaultEntry m w).ivByte = Fin.ofNat 4 w := by
  cases m <;> (revert w; decide)

theorem defaultEntry_mem {m : Config.LayoutMode} {w : Fin 32} (h : w ∈ Config.layoutWords m) :
    Config.defaultEntry m w ∈ Config.defaultIvLayout := by
  cases m with
  | write => exact List.mem_append_left _ (List.mem_map_of_mem h)
  | xor => exact List.mem_append_right _ (List.mem_map_of_mem h)

/-- The default layout names no word twice, so each word of the two sets ends as its default entry makes it. -/
theorem Engine.wordAt_applyIvLayout_default_of_mem (iv : IvMaterial) (e : Engine) {m : Config.LayoutMode} {w : Fin 32}
    (h : w ∈ Config.layoutWords m) :
    (e.applyIvLayout .default iv).wordAt w = ivEntryWord .default iv (Config.defaultEntry m w) (e.wordAt w) :=
  Engine.wordAt_foldl_applyIvEntry_of_nodup .default iv (by decide) (defaultEntry_mem h) e

/-- The word of logical index `w` after the default layout, in the word of before. -/
def defaultIvWord (iv : IvMaterial) (w : Fin 32) (old : Word) : Word :=
  if w ∈ Config.layoutWords .write then wordLoad .literal iv (Fin.ofNat 4 w)
  else if w ∈ Config.layoutWords .xor then old ^^^ wordLoad .literal iv (Fin.ofNat 4 w)
  else old

theorem Engine.wordAt_applyIvLayout_default (iv : IvMaterial) (e : Engine) (w : Fin 32) :
    (e.applyIvLayout .default iv).wordAt w = defaultIvWord iv w (e.wordAt w) := by
  unfold defaultIvWord
  split_ifs with hwrite hxor
  · rw [e.wordAt_applyIvLayout_default_of_mem iv hwrite, ← wordIndexOfByte_defaultEntry .write w]
    rfl
  · rw [e.wordAt_applyIvLayout_default_of_mem iv hxor, ← wordIndexOfByte_defaultEntry .xor w]
    rfl
  · exact e.wordAt_applyIvLayout_of_notMem .default iv fun m => by cases m <;> assumption

/-- At OFF = 0 the default layout writes every cell of R by itself. -/
theorem Engine.applyIvLayout_default_reg (iv : IvMaterial) {e : Engine} (hoff : e.off = 0) :
    (e.applyIvLayout .default iv).reg = Vector.ofFn fun q : Fin 32 => defaultIvWord iv q e.reg[q] := by
  obtain ⟨reg, hframe⟩ := Engine.applyIvLayout_frame .default iv e
  have hoff' : (e.applyIvLayout .default iv).off = 0 := by rw [hframe]; exact hoff
  ext i hi : 1
  calc (e.applyIvLayout .default iv).reg[i]
      = (e.applyIvLayout .default iv).wordAt i := (Engine.wordAt_of_off_zero hoff' ⟨i, hi⟩).symm
    _ = defaultIvWord iv ⟨i, hi⟩ (e.wordAt i) := Engine.wordAt_applyIvLayout_default iv e ⟨i, hi⟩
    _ = defaultIvWord iv ⟨i, hi⟩ e.reg[i] := by rw [Engine.wordAt_of_off_zero hoff ⟨i, hi⟩]; rfl
    _ = _ := by rw [Vector.getElem_ofFn]; rfl

/-! The mixing stage (42_iv_scheduler.md R115). -/

theorem Engine.wordAt_rotate (e : Engine) (k : BitVec offBits) (i : Nat) :
    (e.rotate k).wordAt i = e.wordAt (i + k.toNat) := by
  simp only [Engine.wordAt, Engine.rotate, physIndex_add]

/-- A feedback write sets the one word it names. -/
theorem Engine.wordAt_mixWrite (e : Engine) (fb : (Nat × Nat) × Word) (i : Nat) :
    (e.mixWrite fb).wordAt i = if i % 32 = fb.1.1 % 32 then fb.2 ^^^ e.wordAt fb.1.2 else e.wordAt i :=
  e.wordAt_setWordAt fb.1.1 i _

/-- The four feedback writes, the last first: each reads a word that none of them writes. -/
theorem Engine.wordAt_mixFeedback (e : Engine) (a b c d : Word) {i : Nat} (hi : i < 32) :
    ((mixFeedback.zip [a, b, c, d]).foldl Engine.mixWrite e).wordAt i =
      if i = 3 then d ^^^ e.wordAt 23
      else if i = 2 then c ^^^ e.wordAt 22
      else if i = 1 then b ^^^ e.wordAt 21
      else if i = 0 then a ^^^ e.wordAt 20
      else e.wordAt i := by
  simp [mixFeedback, Engine.wordAt_mixWrite, Nat.mod_eq_of_lt hi]

/-- The register after a stage, in the logical indices of before its rotation. -/
theorem wordAt_mixStage (p : Config.Params) (s : Engine × Carry) {i : Nat} (hi : i < 32) :
    (mixStage p s).1.wordAt i =
      if i = 3 then (mixOutput p s.1 s.2).d ^^^ s.1.wordAt 19
      else if i = 2 then (mixOutput p s.1 s.2).c ^^^ s.1.wordAt 18
      else if i = 1 then (mixOutput p s.1 s.2).b ^^^ s.1.wordAt 17
      else if i = 0 then (mixOutput p s.1 s.2).a ^^^ s.1.wordAt 16
      else s.1.wordAt (i + 28) := by
  have hrotate (n : Nat) : (s.1.rotate mixRot).wordAt n = s.1.wordAt (n + 28) := s.1.wordAt_rotate mixRot n
  have hwrap (n : Nat) : s.1.wordAt (n + 32) = s.1.wordAt n := s.1.wordAt_congr (Nat.add_mod_right n 32)
  rw [mixStage, Engine.wordAt_mixFeedback _ _ _ _ _ hi]
  simp only [hrotate, Nat.reduceAdd, hwrap 16, hwrap 17, hwrap 18, hwrap 19]

/-! The engine after LDIV (42_iv_scheduler.md R110, R116). -/

theorem exec_ldiv_toList (iv : IvMaterial) {s : State} (hphase : s.engine.phase ≠ .empty) :
    exec (.ldiv iv.toList) s =
      .next { engine := s.engine.loadIv Config.params iv, rx := s.rx, tx := s.tx ++ [[0x00]] } := by
  rw [exec_eq_answer, answer_ldiv_toList iv hphase]
  rfl

/-- What the layout and the stages give LDIV is the register and the carry words; OFF is back where it was before the
stages, and every other field comes from the engine before. -/
theorem Engine.loadIv_eq (p : Config.Params) (iv : IvMaterial) (e : Engine) :
    e.loadIv p iv =
      { e with
        reg := (e.mixIv p iv).1.reg
        off := e.restoreUnlessFresh.off
        ctr := (e.mixIv p iv).2.e ++ (e.mixIv p iv).2.f
        fresh := false
        ksBuf := Vector.replicate blockBytes 0
        ksPos := 8
        phase := .primed } := by
  have hreg : (e.loadIv p iv).reg = (e.mixIv p iv).1.reg := rfl
  have hctr : (e.loadIv p iv).ctr = (e.mixIv p iv).2.e ++ (e.mixIv p iv).2.f := rfl
  have hoff := e.loadIv_off p iv
  obtain ⟨reg, off, ctr, hframe⟩ := e.loadIv_frame p iv
  rw [hframe] at hreg hctr hoff ⊢
  simp only at hreg hctr hoff
  rw [hreg, hctr, hoff]

/-! The obligations of 42_iv_scheduler.md. -/

/-- Settles O26: sixteen bytes outside phase EMPTY are IV material, which LDIV answers with OK and the engine above. -/
theorem ldivMixesTheIv : Obligations.LdivMixesTheIv := by
  intro iv s hphase
  rw [exec_ldiv_toList iv hphase, Engine.loadIv_eq]
  rfl

/-- Settles O27: the words of the stage, read off one by one; the wrap of the rotation makes 20 to 23 of after it 16 to
19 of before. -/
theorem mixStageEffect : Obligations.MixStageEffect := by
  intro p e k
  refine ⟨mixStage_carry p (e, k), ?_, ?_, ?_, ?_, ?_, fun i hlow hi => ?_⟩
  · obtain ⟨reg, hframe⟩ := mixStage_frame p (e, k)
    rw [hframe]
  · exact wordAt_mixStage p (e, k) (i := 0) (by decide)
  · exact wordAt_mixStage p (e, k) (i := 1) (by decide)
  · exact wordAt_mixStage p (e, k) (i := 2) (by decide)
  · exact wordAt_mixStage p (e, k) (i := 3) (by decide)
  · rw [wordAt_mixStage p (e, k) hi, if_neg (by omega), if_neg (by omega), if_neg (by omega), if_neg (by omega)]

/-- Settles O31: an admissible layout has an entry for every word of the two sets, each in its own mode, and none for
any other word. -/
theorem ivLayoutTouchesOnlyItsWords : Obligations.IvLayoutTouchesOnlyItsWords := by
  intro p iv e
  refine ⟨?_, fun i hi hout => ?_, fun w hw => ?_⟩
  · obtain ⟨reg, hframe⟩ := e.applyIvLayout_frame p iv
    rw [hframe]
  · have hsets : ∀ w : Fin 32, w.val ∉ [8, 9, 10, 11, 24, 25, 26, 27, 4, 5, 12, 13, 16, 17, 18, 19, 28, 29] →
        ∀ m, w ∉ Config.layoutWords m := by
      intro w hw m
      cases m <;> (revert w; decide)
    exact e.wordAt_applyIvLayout_of_notMem p iv (w := ⟨i, hi⟩) (hsets ⟨i, hi⟩ hout)
  · have hset : ∀ w ∈ [8, 9, 10, 11, 24, 25, 26, 27], ∃ v ∈ Config.layoutWords .write, v.val = w := by decide
    obtain ⟨v, hv, rfl⟩ := hset w hw
    exact Engine.exists_wordAt_applyIvLayout p iv hv

/-- Settles O30: the register is the key image with each word as its own entry of the default layout makes it, and both
the rule's words and its worked example are that evaluated, cell by cell. -/
theorem defaultIvLayoutRegister : Obligations.DefaultIvLayoutRegister := by
  have hreg (key : KeyMaterial) (iv : IvMaterial) :
      ((Engine.reset.loadKey .default key).applyIvLayout .default iv).reg =
        Vector.ofFn fun q => defaultIvWord iv q (keyImage key)[q] := by
    rw [Engine.applyIvLayout_default_reg iv (Engine.loadKey_off .default key Engine.reset), Engine.loadKey_eq_keyImage]
  refine ⟨fun key iv => (hreg key iv).trans (Vector.ext fun i hi => ?_), ?_⟩
  · rw [Vector.getElem_ofFn]
    interval_cases i <;> with_unfolding_all rfl
  · rw [hreg]
    decide

end Sys2Proof.Machine
end

section
/-! Proofs of the family 43_update_network.md: the choices of SBOX_SEL, the s-boxes, the layers and their wiring.
First the count of the choices, then the s-boxes under ROM_T, then the layers, then the obligations. -/

namespace Sys2Proof.Config

/-! Counting the choices of three boxes (43_update_network.md R140). -/

/-- Every choice of a table at each of the four byte positions. -/
def BoxSel.all : List BoxSel :=
  Table.all.flatMap fun a => Table.all.flatMap fun b => Table.all.flatMap fun c => Table.all.map fun d => ⟨a, b, c, d⟩

/-- A box that reads table `t` at exactly one position. -/
def BoxSel.isOdd (t : Table) (b : BoxSel) : Bool := b.count t == 1

/-- One entry, the third box, for every choice of three boxes of a list whose odd positions rotate. -/
def rotatingThirds (t : Table) (boxes : List BoxSel) : List BoxSel :=
  boxes.flatMap fun x => boxes.flatMap fun y => boxes.filter fun z => oddPositionsRotate t x y z

theorem isOdd_of_oddPositionsRotate {t : Table} {x y z : BoxSel} (h : oddPositionsRotate t x y z = true) :
    x.isOdd t = true ∧ y.isOdd t = true ∧ z.isOdd t = true := by
  simp only [oddPositionsRotate, Bool.and_eq_true] at h
  obtain ⟨⟨⟨⟨⟨hx, hy⟩, hz⟩, _⟩, _⟩, _⟩ := h
  exact ⟨hx, hy, hz⟩

/-- A filter may drop what adds nothing. -/
theorem flatMap_filter_of_eq_nil {α β : Type} {p : α → Bool} {f : α → List β} (h : ∀ x, ¬ p x = true → f x = [])
    (l : List α) : (l.filter p).flatMap f = l.flatMap f := by
  induction l with
  | nil => rfl
  | cons x l ih =>
    by_cases hp : p x = true
    · rw [List.filter_cons_of_pos hp, List.flatMap_cons, List.flatMap_cons, ih]
    · rw [List.filter_cons_of_neg hp, List.flatMap_cons, h x hp, List.nil_append, ih]

/-- Only boxes with one odd position are ever chosen. -/
theorem rotatingThirds_filter_isOdd (t : Table) (boxes : List BoxSel) :
    rotatingThirds t (boxes.filter (BoxSel.isOdd t)) = rotatingThirds t boxes := by
  have hthird (x y : BoxSel) :
      (boxes.filter (BoxSel.isOdd t)).filter (oddPositionsRotate t x y) =
        boxes.filter (oddPositionsRotate t x y) := by
    rw [List.filter_filter]
    refine List.filter_congr fun z _ => ?_
    have himp : oddPositionsRotate t x y z = true → z.isOdd t = true := fun h =>
      have ⟨_, _, hz⟩ := isOdd_of_oddPositionsRotate h
      hz
    rwa [Bool.and_eq_left_iff_imp]
  have hsecond (x y : BoxSel) (hy : ¬ y.isOdd t = true) : boxes.filter (oddPositionsRotate t x y) = [] :=
    List.filter_eq_nil_iff.mpr fun _ _ h =>
      have ⟨_, hy', _⟩ := isOdd_of_oddPositionsRotate h
      hy hy'
  have hfirst (x : BoxSel) (hx : ¬ x.isOdd t = true) :
      (boxes.flatMap fun y => boxes.filter (oddPositionsRotate t x y)) = [] :=
    List.flatMap_eq_nil_iff.mpr fun _ _ => List.filter_eq_nil_iff.mpr fun _ _ h =>
      have ⟨hx', _, _⟩ := isOdd_of_oddPositionsRotate h
      hx hx'
  simp only [rotatingThirds, hthird, flatMap_filter_of_eq_nil (hsecond _), flatMap_filter_of_eq_nil hfirst]

/-- Four boxes have one odd position; of their 64 choices of three, 24 name three different boxes. -/
theorem rotatingThirds_all_length (t : Table) : (rotatingThirds t BoxSel.all).length = 24 := by
  rw [← rotatingThirds_filter_isOdd]
  cases t <;> decide

end Sys2Proof.Config

namespace Sys2Proof.Machine

/-! The s-boxes under ROM_T (43_update_network.md R133). -/

/-- The entry of ROM_T that table `t` has at `v`. -/
def romTEntry (t : Config.Table) (v : Byte) : Word :=
  match t with
  | .first => 0x9E3779B9#32 * (v.setWidth 32 + 1)
  | .second => 0x85EBCA6B#32 * (v.setWidth 32 + 1) + 0x27D4EB2F

theorem lookup_romT (t : Config.Table) (v : Byte) : lookup romT t v = romTEntry t v := by
  cases t <;> exact romTable_getElem _ v

theorem sbox_romT (p : Config.Params) (box : Config.BoxName) (x : Word) :
    sbox p romT box x =
      romTEntry (p.sboxSel.of box).byte0 (byteOf 0 x) ^^^ romTEntry (p.sboxSel.of box).byte1 (byteOf 1 x) ^^^
        romTEntry (p.sboxSel.of box).byte2 (byteOf 2 x) ^^^ romTEntry (p.sboxSel.of box).byte3 (byteOf 3 x) := by
  simp only [sbox, substitute, lookup_romT]

/-! The layers, on six words by name (43_update_network.md R126 to R131). -/

section
variable (p : Config.Params) (rom : Rom) (a b c d e f : Word)

theorem layer1_mk : layer1 ⟨a, b, c, d, e, f⟩ = ⟨a, b ^^^ a, c, d ^^^ c, e, f ^^^ e⟩ := rfl

theorem layer2_mk : layer2 ⟨a, b, c, d, e, f⟩ = ⟨a + f, b, c + b, d, e + d, f⟩ := rfl

theorem layer3_mk : layer3 p rom ⟨a, b, c, d, e, f⟩ =
    ⟨a, b ^^^ sbox p rom .g3 e, c, d ^^^ sbox p rom .g1 a, e, f ^^^ sbox p rom .g2 c⟩ := rfl

theorem layer4_mk : layer4 p rom ⟨a, b, c, d, e, f⟩ =
    ⟨a ^^^ sbox p rom .h1 b, b, c ^^^ sbox p rom .h2 d, d, e ^^^ sbox p rom .h3 f, f⟩ := rfl

theorem layer5_mk : layer5 ⟨a, b, c, d, e, f⟩ = ⟨a, b + e, c, d + a, e, f + c⟩ := rfl

theorem layer6_mk : layer6 ⟨a, b, c, d, e, f⟩ = ⟨a ^^^ f, b, c ^^^ b, d, e ^^^ d, f⟩ := rfl

/-- Each canonical call is the layer of its number (43_update_network.md R132): no pair of a call reads a word that
another pair of it writes. -/
theorem canonicalCalls_map_runCall :
    canonicalCalls.map (fun call x => runCall p rom x call) =
      [layer1, layer2, layer3 p rom, layer4 p rom, layer5, layer6] := rfl

end

/-! The obligations of 43_update_network.md. -/

/-- Settles O33: the calls, one by one, are the layers, and the network is the layers in order. -/
theorem canonicalCallsAreTheNetwork : Obligations.CanonicalCallsAreTheNetwork := by
  intro p rom x
  calc canonicalCalls.foldl (runCall p rom) x
      = (canonicalCalls.map fun call y => runCall p rom y call).foldl (fun y layer => layer y) x :=
        List.foldl_map.symm
    _ = [layer1, layer2, layer3 p rom, layer4 p rom, layer5, layer6].foldl (fun y layer => layer y) x := by
        rw [canonicalCalls_map_runCall]
    _ = network p rom x := rfl

/-- Settles O35: the assignments are the layers on named words; each step of the running example is its layer's
assignments evaluated, and the network goes through the six steps in turn. -/
theorem layersAsStated : Obligations.LayersAsStated := by
  have h1 : layer1 ⟨1, 2, 3, 4, 5, 6⟩ = ⟨1, 3, 3, 7, 5, 3⟩ := by
    rw [layer1_mk]; decide
  have h2 : layer2 ⟨1, 3, 3, 7, 5, 3⟩ = ⟨4, 3, 6, 7, 0xC, 3⟩ := by
    rw [layer2_mk]; decide
  have h3 : layer3 .default romT ⟨4, 3, 6, 7, 0xC, 3⟩ = ⟨4, 0xA5119BFC, 6, 0x5B58A6F8, 0xC, 0xFE44E196⟩ := by
    simp only [layer3_mk, sbox_romT]; decide
  have h4 : layer4 .default romT ⟨4, 0xA5119BFC, 6, 0x5B58A6F8, 0xC, 0xFE44E196⟩ =
      ⟨0xF3840596, 0xA5119BFC, 0xA243492A, 0x5B58A6F8, 0x6D5488FC, 0xFE44E196⟩ := by
    simp only [layer4_mk, sbox_romT]; decide
  have h5 : layer5 ⟨0xF3840596, 0xA5119BFC, 0xA243492A, 0x5B58A6F8, 0x6D5488FC, 0xFE44E196⟩ =
      ⟨0xF3840596, 0x126624F8, 0xA243492A, 0x4EDCAC8E, 0x6D5488FC, 0xA0882AC0⟩ := by
    rw [layer5_mk]; decide
  have h6 : layer6 ⟨0xF3840596, 0x126624F8, 0xA243492A, 0x4EDCAC8E, 0x6D5488FC, 0xA0882AC0⟩ =
      ⟨0x530C2F56, 0x126624F8, 0xB0256DD2, 0x4EDCAC8E, 0x23882472, 0xA0882AC0⟩ := by
    rw [layer6_mk]; decide
  refine ⟨fun a b c d e f => ⟨layer1_mk a b c d e f, layer2_mk a b c d e f, layer5_mk a b c d e f,
    layer6_mk a b c d e f, fun p rom => ⟨layer3_mk p rom a b c d e f, layer4_mk p rom a b c d e f⟩⟩,
    h1, h2, by decide, by decide, h3, h4, h5, h6, ?_⟩
  rw [network, h1, h2, h3, h4, h5, h6]

/-- Settles O37: the default selection is the one the rules spell out, and the examples are their XORs of ROM_T's
entries evaluated. -/
theorem defaultBoxesAsStated : Obligations.DefaultBoxesAsStated := by
  refine ⟨fun rom x => ⟨rfl, rfl, rfl, rfl, rfl, rfl⟩, ?_⟩
  simp only [sbox_romT]
  decide

/-- Settles O38: the statement's count is that of the choices above. -/
theorem admissibleSelectionsCounted : Obligations.AdmissibleSelectionsCounted :=
  ⟨Config.rotatingThirds_all_length .second, Config.rotatingThirds_all_length .first, by decide⟩

end Sys2Proof.Machine
end

section
/-! Proofs of the family 44_round_and_stream.md: what a round leaves, what one XORB does in each case of the two cursor
modes, and runs of XORBs. First the facts about a round, about one command and about runs, then the obligations. -/

namespace Sys2Proof.Machine

/-! A round (44_round_and_stream.md R146, R147). -/

/-- Every field a round writes; the window of the feedback is the one after the rotation. -/
theorem Engine.regen_eq (p : Config.Params) (e : Engine) :
    e.regen p =
      { e with
        reg := (e.reg.set (physIndex (e.off + 2) 0) (network p e.rom e.roundTaps).b).set (physIndex (e.off + 2) 1)
          (network p e.rom e.roundTaps).c
        off := e.off + 2
        ctr := e.ctr + 1
        ksBuf := blockOf (network p e.rom e.roundTaps).a (network p e.rom e.roundTaps).e
        ksPos := 0 } := rfl

/-- A round does not read KSPOS. -/
theorem Engine.regen_with_ksPos (p : Config.Params) (e : Engine) (k : Fin (blockBytes + 1)) :
    { e with ksPos := k }.regen p = e.regen p := rfl

theorem Engine.rounds_phase (p : Config.Params) (n : Nat) (e : Engine) : (e.rounds p n).phase = e.phase := by
  induction n with
  | zero => rfl
  | succ n ih =>
    obtain ⟨_, _, _, hphase, _⟩ := (e.rounds p n).regen_frame p
    rw [Engine.rounds_succ, hphase, ih]

/-- ROUND in phase PRIMED answers the block of one round (44_round_and_stream.md R150). -/
theorem execRoundWith_of_primed (p : Config.Params) {s : State} (hphase : s.engine.phase = .primed) :
    execRoundWith p s =
      .next { engine := s.engine.regen p, rx := s.rx, tx := s.tx ++ [0x00 :: (s.engine.regen p).ksBuf.toList] } :=
  if_pos hphase

/-! One XORB (44_round_and_stream.md R152, R153): with the byte at the cursor, or with the first byte of a round. -/

/-- The state after an XORB that used byte `k` of the block of engine `e`. -/
def State.afterByte (s : State) (e : Engine) (k : Fin blockBytes) (data : Byte) : State :=
  { engine := { e with ksPos := k.succ }, rx := s.rx, tx := s.tx ++ [[0x00, data ^^^ e.ksBuf[k]]] }

/-- XORB in phase PRIMED uses the byte that the cursor rule supplies. -/
theorem execXorbWith_of_primed (p : Config.Params) (data : Byte) {s : State} (hphase : s.engine.phase = .primed) :
    execXorbWith p data s = .next (s.afterByte (s.engine.supply p).1 (s.engine.supply p).2 data) :=
  if_pos hphase

/-- SEQUENTIAL takes the byte at the cursor as long as the block has one. -/
theorem execXorbWith_of_ksPos_lt {p : Config.Params} (hmode : p.cursorMode = .sequential) (data : Byte) {s : State}
    (hphase : s.engine.phase = .primed) (hpos : s.engine.ksPos.val < 8) :
    execXorbWith p data s = .next (s.afterByte s.engine ⟨s.engine.ksPos.val, hpos⟩ data) := by
  have hsupply : s.engine.supply p = (s.engine, ⟨s.engine.ksPos.val, hpos⟩) := by
    simp only [Engine.supply, hmode]
    exact dif_pos hpos
  rw [execXorbWith_of_primed p data hphase, hsupply]

/-- FIRST_BYTE always, and SEQUENTIAL on an exhausted block, run a round and take its first byte. -/
theorem execXorbWith_of_round {p : Config.Params} (data : Byte) {s : State} (hphase : s.engine.phase = .primed)
    (hround : p.cursorMode = .firstByte ∨ ¬ s.engine.ksPos.val < 8) :
    execXorbWith p data s = .next (s.afterByte (s.engine.regen p) 0 data) := by
  obtain ⟨hpos, hmode, _⟩ | ⟨_, hsupply⟩ := s.engine.supply_cases p
  · obtain hfirst | hexhausted := hround
    · rw [hmode] at hfirst
      cases hfirst
    · exact absurd hpos hexhausted
  · rw [execXorbWith_of_primed p data hphase, hsupply]

/-! Runs of XORBs. -/

theorem xorbAllWith_cons {p : Config.Params} {data : Byte} {s t : State} (h : execXorbWith p data s = .next t)
    (ds : List Byte) : xorbAllWith p (data :: ds) s = xorbAllWith p ds t := by
  simp only [xorbAllWith, h]

theorem xorbAllWith_append {p : Config.Params} {ds : List Byte} {s t : State} (h : xorbAllWith p ds s = .next t)
    (es : List Byte) : xorbAllWith p (ds ++ es) s = xorbAllWith p es t := by
  induction ds generalizing s with
  | nil => cases h; rfl
  | cons d ds ih =>
    cases hd : execXorbWith p d s with
    | next u =>
      rw [xorbAllWith_cons hd] at h
      rw [List.cons_append, xorbAllWith_cons hd, ih h]
    | fault r => simp only [xorbAllWith, hd] at h; cases h
    | refused r => simp only [xorbAllWith, hd] at h; cases h

/-- In SEQUENTIAL mode XORBs that the block at hand has bytes for use them from the cursor on, and move the cursor
only (44_round_and_stream.md R152). -/
theorem xorbAllWith_within_block {p : Config.Params} (hmode : p.cursorMode = .sequential) (data : List Byte) {s : State}
    (hphase : s.engine.phase = .primed) (hfits : s.engine.ksPos.val + data.length ≤ 8) :
    xorbAllWith p data s =
      .next { engine := { s.engine with ksPos := Fin.ofNat 9 (s.engine.ksPos.val + data.length) }
              rx := s.rx
              tx := s.tx ++ List.zipWith (fun d k => [(0x00 : Byte), d ^^^ k]) data
                (s.engine.ksBuf.toList.drop s.engine.ksPos.val) } := by
  induction data generalizing s with
  | nil => simp [xorbAllWith]
  | cons d ds ih =>
    rw [List.length_cons] at hfits
    have hpos : s.engine.ksPos.val < 8 := by omega
    have hbytes : s.engine.ksBuf.toList.drop s.engine.ksPos.val =
        s.engine.ksBuf[s.engine.ksPos.val] :: s.engine.ksBuf.toList.drop (s.engine.ksPos.val + 1) := by
      rw [List.drop_eq_getElem_cons (by simpa using hpos)]
      rfl
    have hcount : s.engine.ksPos.val + 1 + ds.length = s.engine.ksPos.val + (ds.length + 1) := by omega
    have hrest := ih (s := s.afterByte s.engine ⟨s.engine.ksPos.val, hpos⟩ d) hphase (hcount.trans_le hfits)
    rw [xorbAllWith_cons (execXorbWith_of_ksPos_lt hmode d hphase hpos), hrest]
    simp [State.afterByte, hbytes, hcount]

/-- In FIRST_BYTE mode every XORB runs one round and uses its first byte; KSPOS is 1 after the last, and as it was when
there was none (44_round_and_stream.md R153). -/
theorem exists_xorbAllWith_of_firstByte {p : Config.Params} (hmode : p.cursorMode = .firstByte) (data : List Byte)
    {s : State} (hphase : s.engine.phase = .primed) :
    ∃ k : Fin 9, (data ≠ [] → k = 1) ∧
      xorbAllWith p data s =
        .next { engine := { s.engine.rounds p data.length with ksPos := k }
                rx := s.rx
                tx := s.tx ++ data.mapIdx fun i d => [(0x00 : Byte), d ^^^ (s.engine.block p i)[0]] } := by
  induction data using List.reverseRecOn with
  | nil => exact ⟨s.engine.ksPos, fun h => absurd rfl h, by simp [xorbAllWith, Engine.rounds]⟩
  | append_singleton ds d ih =>
    obtain ⟨k, _, hrun⟩ := ih
    have hprimed := (s.engine.rounds_phase p ds.length).trans hphase
    refine ⟨1, fun _ => rfl, ?_⟩
    rw [xorbAllWith_append hrun, xorbAllWith_cons (execXorbWith_of_round d hprimed (.inl hmode))]
    simp [xorbAllWith, State.afterByte, Engine.regen_with_ksPos, Engine.block, Engine.rounds_succ, List.mapIdx_concat]

/-! The obligations of 44_round_and_stream.md. -/

/-- Settles O43: in each cursor mode XORB takes the byte at the cursor or the first byte of a round. -/
theorem xorbServesOneByte : Obligations.XorbServesOneByte := by
  intro s data hphase
  change execXorbWith Config.params data s = _
  cases hmode : Config.params.cursorMode with
  | firstByte => exact execXorbWith_of_round data hphase (.inl hmode)
  | sequential =>
    by_cases hpos : s.engine.ksPos.val < 8
    · simp only [dif_pos hpos]
      exact execXorbWith_of_ksPos_lt hmode data hphase hpos
    · simp only [dif_neg hpos]
      exact execXorbWith_of_round data hphase (.inr hpos)

/-- Settles O45: a ROUND leaves its block with the cursor at its first byte, and the block has eight bytes. -/
theorem roundRebasesTheCursor : Obligations.RoundRebasesTheCursor := by
  intro p data s t hmode hphase hlength hround
  rw [execRoundWith_of_primed p hphase] at hround
  cases hround
  have hfits : (s.engine.regen p).ksPos.val + data.length ≤ 8 := (Nat.zero_add _).trans_le hlength
  refine ⟨_, _, rfl, xorbAllWith_within_block hmode data hphase hfits, rfl, ?_⟩
  exact congrArg (fun n => { s.engine.regen p with ksPos := Fin.ofNat 9 n }) (Nat.zero_add data.length)

/-- Settles O46, by adding one XORB at the end of a run. -/
theorem firstByteModeSpendsARoundPerByte : Obligations.FirstByteModeSpendsARoundPerByte := by
  intro p data s hmode hphase
  obtain ⟨k, hk, hrun⟩ := exists_xorbAllWith_of_firstByte hmode data hphase
  exact ⟨_, hrun, rfl, fun hdata => by rw [hk hdata]⟩

/-- Settles O39: the answer of a primed ROUND, with its round written out. -/
theorem roundRunsOneRound : Obligations.RoundRunsOneRound := by
  intro s hphase
  have hround : exec .round s = _ := execRoundWith_of_primed Config.params hphase
  rw [hround, Engine.regen_eq]
  rfl

end Sys2Proof.Machine
end

section
/-! Proofs of the family 45_session_control.md: CLR, and the commands that the phases before PRIMED refuse. First the
facts about each, then the obligation. -/

namespace Sys2Proof.Machine

/-- CLR overwrites every field but the ROM with its value after reset (45_session_control.md R165, 10_state.md R36). -/
theorem Engine.clear_eq (e : Engine) : e.clear = { Engine.reset with rom := e.rom } := rfl

theorem exec_clr_eq_reset (s : State) :
    exec .clr s = .next
      { engine := { Engine.reset with rom := s.engine.rom }, rx := s.rx, tx := s.tx ++ [[0x00]] } := by
  rw [exec_clr_eq, Engine.clear_eq, State.finish_eq]

/-- LDIV without a key is refused, whatever its payload: the phase is checked first (60_exceptions.md R173, R175). -/
theorem exec_ldiv_of_empty (payload : List Byte) {s : State} (hphase : s.engine.phase = .empty) :
    exec (.ldiv payload) s = .next { s with tx := s.tx ++ [[0x04]] } := by
  rw [exec_eq_answer, answer_ldiv_of_empty payload hphase]
  rfl

/-- ROUND and XORB outside phase PRIMED are refused (60_exceptions.md R177). -/
theorem exec_streamCommand_of_not_primed (c : Option Byte) {s : State} (hphase : s.engine.phase ≠ .primed) :
    exec (streamCommand c) s = .next { s with tx := s.tx ++ [[0x05]] } := by
  have hraise : exec (streamCommand c) s = s.raise .notPrimed := by
    cases c with
    | none => exact (exec_round_cases s).elim And.right fun ⟨hprimed, _⟩ => absurd hprimed hphase
    | some data => exact (exec_xorb_cases data s).elim And.right fun ⟨hprimed, _⟩ => absurd hprimed hphase
  rw [hraise, State.raise_eq]
  rfl

/-! The obligation of 45_session_control.md. -/

/-- Settles O20: the engine CLR leaves is the one after reset but for the ROM, so its phase is EMPTY, in which LDIV,
ROUND and XORB are refused. -/
theorem clrGivesTheResetState : Obligations.ClrGivesTheResetState := by
  intro s
  refine ⟨_, exec_clr_eq_reset s, rfl, fun hrom => ?_, fun payload => exec_ldiv_of_empty payload rfl,
    exec_streamCommand_of_not_primed none nofun, fun data => exec_streamCommand_of_not_primed (some data) nofun⟩
  rw [hrom]

end Sys2Proof.Machine
end

section
/-! Proofs of the family 60_exceptions.md: what a refused command or an illegal header leaves, and which responses a step
can send. First the facts about packets and steps, then the obligations. -/

namespace Sys2Proof.Machine

/-! What a step does is the answer of one packet. -/

theorem step_of_rx_eq {s : State} {p : Packet} {rest : List Byte} (hp : p.wellFormed = true)
    (hrx : s.rx = encodePacket p ++ rest) :
    step s = .next { s.after (packetAnswer p s.engine) with rx := rest } := by
  have hs : s = { s with rx := encodePacket p ++ rest } := by rw [← hrx]
  calc step s = runPacket p { s with rx := rest } := by rw [hs, step_encodePacket_append hp]
    _ = _ := runPacket_with_rx p s rest

/-- Every step is a wait or the answer of one packet. -/
theorem eq_or_exists_packetAnswer_of_step {s t : State} (h : step s = .next t) :
    t = s ∨ ∃ p rest, t = { s.after (packetAnswer p s.engine) with rx := rest } := by
  obtain ⟨_, _, rfl⟩ | ⟨i, rest, _, hexec⟩ | ⟨why, rest, _, rfl⟩ := step_cases h
  · exact .inl rfl
  · rw [exec_eq_answer] at hexec
    cases hexec
    exact .inr ⟨.command i, rest, rfl⟩
  · exact .inr ⟨.illegal why, rest, rfl⟩

/-- An error is answered by its status alone, the engine as it was (60_exceptions.md R176). -/
theorem packetAnswer_of_error {p : Packet} {e : Engine} (h : (packetAnswer p e).status ≠ .ok) :
    (packetAnswer p e).bytes = [] ∧ (packetAnswer p e).engine = e := by
  cases p with
  | command i => exact (answer_fits i e).of_error h
  | illegal why => exact ⟨rfl, rfl⟩

/-- The reserved status is no packet's answer (60_exceptions.md R174). -/
theorem packetAnswer_status_ne_lengthMismatch (p : Packet) (e : Engine) :
    (packetAnswer p e).status ≠ .lengthMismatch := by
  cases p with
  | command i =>
    have hstatus : (answer i e).status = expectedStatus i e.phase := (answer_fits i e).status_eq
    exact hstatus ▸ expectedStatus_ne_lengthMismatch i e.phase
  | illegal why => nofun

/-! What is refused with a status: a command executed by itself, and a packet taken off the front of rx. -/

theorem exec_of_answer_eq {i : Instr} {s : State} {st : Status} (h : answer i s.engine = ⟨st, [], s.engine⟩) :
    exec i s = .next { s with tx := s.tx ++ [[st.code]] } := by
  rw [exec_eq_answer, h]
  rfl

theorem step_of_packetAnswer_eq {s : State} {p : Packet} {rest : List Byte} {st : Status} (hp : p.wellFormed = true)
    (hrx : s.rx = encodePacket p ++ rest) (h : packetAnswer p s.engine = ⟨st, [], s.engine⟩) :
    step s = .next { s with rx := rest, tx := s.tx ++ [[st.code]] } := by
  rw [step_of_rx_eq hp hrx, h]
  rfl

/-! The obligations of 60_exceptions.md. -/

/-- Settles O49: a wait sends nothing, and the answer of a packet that is not OK is the status alone. -/
theorem errorsChangeNothing : Obligations.ErrorsChangeNothing := by
  intro s t status bytes hstep htx hstatus
  obtain rfl | ⟨p, rest, rfl⟩ := eq_or_exists_packetAnswer_of_step hstep
  · simp at htx
  · obtain ⟨rfl, rfl⟩ : (packetAnswer p s.engine).status.code = status ∧ (packetAnswer p s.engine).bytes = bytes := by
      simpa [State.after] using htx
    obtain ⟨hbytes, hengine⟩ := packetAnswer_of_error (mt (Status.code_eq_zero_iff _).mpr hstatus)
    exact ⟨hengine, hbytes⟩

/-- Settles O50: the one response a step can add begins with the status of a packet's answer, and different statuses
have different codes. -/
theorem lengthMismatchIsNeverSent : Obligations.LengthMismatchIsNeverSent := by
  intro s t hstep response hnew hold
  obtain rfl | ⟨p, rest, rfl⟩ := eq_or_exists_packetAnswer_of_step hstep
  · exact absurd hnew hold
  · have hresponse : response = (packetAnswer p s.engine).status.code :: (packetAnswer p s.engine).bytes :=
      List.mem_singleton.mp ((List.mem_append.mp hnew).resolve_left hold)
    rw [hresponse, List.head?_cons]
    exact fun hcode => packetAnswer_status_ne_lengthMismatch p s.engine
      (Status.code_injective (y := .lengthMismatch) (Option.some.inj hcode))

/-- Settles O8: a header that R81 lists is a packet of its own two bytes. -/
theorem stepAnswersIllegalHeaders : Obligations.StepAnswersIllegalHeaders := by
  intro s op arg rest hrx hlisted
  obtain ⟨why, hwhy, hbytes⟩ := (exists_illegalHeader_iff op arg).mpr hlisted
  have hpacket : s.rx = encodePacket (.illegal why) ++ rest := by rw [hrx, encodePacket, hbytes]; rfl
  exact step_of_packetAnswer_eq (p := .illegal why) hwhy hpacket rfl

/-- Settles O22: the length alone decides what LDKEY is answered. -/
theorem ldkeyRefusesWrongLength : Obligations.LdkeyRefusesWrongLength := by
  intro s
  refine ⟨fun payload hlen => ?_, fun payload rest hlen hfits hrx => ?_, fun key => ?_⟩
  · exact exec_of_answer_eq (answer_ldkey_of_length_ne hlen s.engine)
  · exact step_of_packetAnswer_eq (p := .command (.ldkey payload)) (decide_eq_true hfits) hrx
      (answer_ldkey_of_length_ne hlen s.engine)
  · exact ⟨_, exec_ldkey_toList key s, rfl⟩

/-- Settles O24: in phase EMPTY the length of an LDIV is not looked at. -/
theorem ldivNeedsAKey : Obligations.LdivNeedsAKey :=
  fun payload _ hphase => exec_ldiv_of_empty payload hphase

/-- Settles O25: outside phase EMPTY the length alone decides what LDIV is answered. -/
theorem ldivRefusesWrongLength : Obligations.LdivRefusesWrongLength := by
  intro s hphase
  refine ⟨fun payload hlen => ?_, fun payload rest hlen hfits hrx => ?_, fun iv => ?_⟩
  · exact exec_of_answer_eq (answer_ldiv_of_length_ne hlen hphase)
  · exact step_of_packetAnswer_eq (p := .command (.ldiv payload)) (decide_eq_true hfits) hrx
      (answer_ldiv_of_length_ne hlen hphase)
  · exact ⟨_, exec_ldiv_toList iv hphase, rfl⟩

/-- Settles O40: ROUND and XORB are the two commands of the keystream. -/
theorem keystreamNeedsAPrimedSession : Obligations.KeystreamNeedsAPrimedSession :=
  fun _ data hphase =>
    ⟨exec_streamCommand_of_not_primed none hphase, exec_streamCommand_of_not_primed (some data) hphase⟩

end Sys2Proof.Machine
end

section
/-! Proofs of the family 70_reset_and_hazards.md: the host's move, and the step that follows it. First the facts about
each, then the obligation. -/

namespace Sys2Proof.Machine

/-! When the host has a move. -/

/-- While a whole packet waits for its response the host has no move (70_reset_and_hazards.md R193). -/
theorem State.hostSend_of_packet {s : State} {p : Packet} {rest : List Byte} (h : decode s.rx = .packet p rest)
    (bytes : List Byte) : s.hostSend bytes = none := by
  simp only [State.hostSend, State.hostMaySend, h, Bool.false_eq_true, if_false]

/-- A host that waits for nothing may send a whole packet: the decoder takes exactly its bytes. -/
theorem State.hostSend_encodePacket {s : State} {p : Packet} (hp : p.wellFormed = true) (hrx : s.rx = []) :
    s.hostSend (encodePacket p) = some { s with rx := encodePacket p } := by
  have hdecode : decode (encodePacket p) = .packet p [] := by
    simpa only [List.append_nil] using decode_encodePacket_append hp []
  have hmay : s.hostMaySend (encodePacket p) = true := by
    rw [State.hostMaySend_iff, hrx]
    exact ⟨⟨_, decode_of_length_lt Nat.two_pos⟩, .inr ⟨p, hdecode⟩⟩
  rw [State.hostSend_eq_some_iff, hrx]
  exact ⟨hmay, rfl⟩

/-! What a step does, by what the bytes in rx begin with. -/

theorem step_of_decode_incomplete {s : State} {m : Missing} (h : decode s.rx = .incomplete m) : step s = .next s := by
  simp only [step, serveNext, State.fetch, h]

theorem step_of_decode_packet {s : State} {p : Packet} {rest : List Byte} (h : decode s.rx = .packet p rest) :
    step s = .next { s.after (packetAnswer p s.engine) with rx := rest } := by
  obtain ⟨hp, hrx⟩ := decode_eq_packet_iff.mp h
  exact step_of_rx_eq hp hrx

/-! The obligation of 70_reset_and_hazards.md. -/

/-- Settles O59: after a move the bytes in rx are a part of one packet, for which the engine waits, or one whole packet
with nothing after it, which it answers. -/
theorem hostSendsOnePacketAtATime : Obligations.HostSendsOnePacketAtATime := by
  intro s bytes
  refine ⟨fun ⟨_, _, hpacket⟩ => State.hostSend_of_packet hpacket bytes, fun t hsend => ?_,
    fun _ hp hrx => State.hostSend_encodePacket hp hrx⟩
  obtain ⟨hmay, rfl⟩ := State.hostSend_eq_some_iff.mp hsend
  refine ⟨rfl, rfl, rfl, fun u hstep => ?_⟩
  obtain ⟨_, ⟨m, hpart⟩ | ⟨p, hwhole⟩⟩ := State.hostMaySend_iff.mp hmay
  · rw [step_of_decode_incomplete hpart] at hstep
    cases hstep
    exact .inl ⟨rfl, m, hpart⟩
  · rw [step_of_decode_packet hwhole] at hstep
    cases hstep
    exact .inr ⟨rfl, _, rfl⟩

end Sys2Proof.Machine
end

section
/-! Proofs of the step as a whole: the invariant of 10_state.md R34, which reset meets and every step keeps, and the step
that never stops. First what ROUND and XORB leave alone and what the invariant says in each phase, then the invariant
through each command, then the obligations. -/

namespace Sys2Proof.Machine

/-! The part of an engine that belongs to the session: ROUND and XORB leave it alone (45_session_control.md R166). -/

/-- Two engines of one session: they differ at most in R, OFF, CTR and the keystream block. -/
structure Engine.SameSession (x y : Engine) : Prop where
  keySize : x.keySize = y.keySize
  fresh : x.fresh = y.fresh
  snap : x.snap = y.snap
  phase : x.phase = y.phase
  rom : x.rom = y.rom

theorem Engine.SameSession.refl (e : Engine) : e.SameSession e := ⟨rfl, rfl, rfl, rfl, rfl⟩

theorem Engine.SameSession.trans {x y z : Engine} (hxy : x.SameSession y) (hyz : y.SameSession z) : x.SameSession z :=
  ⟨hxy.keySize.trans hyz.keySize, hxy.fresh.trans hyz.fresh, hxy.snap.trans hyz.snap, hxy.phase.trans hyz.phase,
    hxy.rom.trans hyz.rom⟩

theorem Engine.regen_sameSession (p : Config.Params) (e : Engine) : (e.regen p).SameSession e :=
  ⟨rfl, rfl, rfl, rfl, rfl⟩

theorem Engine.supply_sameSession (p : Config.Params) (e : Engine) : (e.supply p).1.SameSession e := by
  obtain ⟨_, _, h⟩ | ⟨_, h⟩ := e.supply_cases p <;> rw [h]
  · exact .refl e
  · exact e.regen_sameSession p

/-- Moving the cursor changes no other field. -/
theorem Engine.advanceTo_sameSession (e : Engine) (k : Fin blockBytes) : (e.advanceTo k).SameSession e :=
  ⟨rfl, rfl, rfl, rfl, rfl⟩

/-- ROUND and XORB stay in the session, refused or not. -/
theorem answer_streamCommand_sameSession (c : Option Byte) (e : Engine) :
    (answer (streamCommand c) e).engine.SameSession e := by
  cases c with
  | none =>
    simp only [streamCommand, answer]
    split
    · exact e.regen_sameSession _
    · exact .refl e
  | some data =>
    simp only [streamCommand, answer]
    split
    · exact (Engine.advanceTo_sameSession _ _).trans (e.supply_sameSession _)
    · exact .refl e

/-! The parity of OFF. -/

theorem Engine.regen_off_even {e : Engine} (h : e.off.toNat % 2 = 0) (p : Config.Params) :
    (e.regen p).off.toNat % 2 = 0 := by
  obtain ⟨_, hoff, _⟩ := e.regen_counters p
  have htwo : (2 : BitVec offBits).toNat = 2 := rfl
  rw [hoff, offset_add, htwo]
  omega

theorem answer_streamCommand_off_even (c : Option Byte) {e : Engine} (h : e.off.toNat % 2 = 0) :
    (answer (streamCommand c) e).engine.off.toNat % 2 = 0 := by
  cases c with
  | none =>
    simp only [streamCommand, answer]
    split
    · exact Engine.regen_off_even h _
    · exact h
  | some data =>
    simp only [streamCommand, answer]
    split
    · rw [Engine.advanceTo_off]
      obtain ⟨_, _, hsupply⟩ | ⟨_, hsupply⟩ := e.supply_cases Config.params <;> rw [hsupply]
      · exact h
      · exact Engine.regen_off_even h _
    · exact h

/-! What the invariant says in each phase (10_state.md R34). -/

/-- In phase EMPTY nothing but the ROM is free. -/
theorem Engine.reset_with_rom_inv (rom : Rom) : { Engine.reset with rom := rom }.Inv where
  keySize_values := .inl rfl
  fresh_iff_keyed := by simp [Engine.reset]
  keySize_zero_iff_empty := by simp [Engine.reset]
  empty_is_clear := fun _ => ⟨rfl, rfl, rfl, rfl, rfl, rfl⟩
  keyed_is_scheduled := nofun
  primed_even := nofun
  snap_is_key_layout := fun h => absurd rfl h

/-- With a key loaded KEYSIZE is 128. -/
theorem Engine.Inv.keySize_eq {e : Engine} (h : e.Inv) (hphase : e.phase ≠ .empty) : e.keySize = 128 :=
  h.keySize_values.resolve_left fun hzero => hphase (h.keySize_zero_iff_empty.mp hzero)

/-- What makes a primed engine meet the invariant. -/
theorem Engine.inv_of_primed {e : Engine} (hphase : e.phase = .primed) (hkeySize : e.keySize = 128)
    (hfresh : e.fresh = false) (heven : e.off.toNat % 2 = 0) (hsnap : ∃ key, e.snap = keyImage key) : e.Inv where
  keySize_values := .inr hkeySize
  fresh_iff_keyed := by simp [hfresh, hphase]
  keySize_zero_iff_empty := by simp [hkeySize, hphase]
  empty_is_clear := by simp [hphase]
  keyed_is_scheduled := by simp [hphase]
  primed_even := fun _ => heven
  snap_is_key_layout := fun _ => hsnap

/-- A primed engine may move on within its session, as long as OFF stays even. -/
theorem Engine.Inv.of_sameSession {x y : Engine} (h : x.Inv) (hphase : x.phase = .primed) (hsame : y.SameSession x)
    (heven : y.off.toNat % 2 = 0) : y.Inv := by
  have hloaded : x.phase ≠ .empty := by rw [hphase]; nofun
  have hfresh : x.fresh = false := Bool.eq_false_iff.mpr fun hf => by
    have hkeyed := h.fresh_iff_keyed.mp hf
    rw [hphase] at hkeyed
    cases hkeyed
  exact Engine.inv_of_primed (hsame.phase.trans hphase) (hsame.keySize.trans (h.keySize_eq hloaded))
    (hsame.fresh.trans hfresh) heven (hsame.snap ▸ h.snap_is_key_layout hloaded)

/-! The invariant through each command. -/

theorem Engine.clear_inv (e : Engine) : e.clear.Inv := e.clear_eq ▸ Engine.reset_with_rom_inv e.rom

/-- LDKEY leaves the key image in R and in SNAP (41_key_scheduler.md R103). -/
theorem Engine.loadKey_inv (p : Config.Params) (key : KeyMaterial) (e : Engine) : (e.loadKey p key).Inv := by
  rw [Engine.loadKey_eq_keyImage]
  exact
    { keySize_values := .inr rfl
      fresh_iff_keyed := by simp
      keySize_zero_iff_empty := by simp
      empty_is_clear := nofun
      keyed_is_scheduled := fun _ => ⟨rfl, rfl, rfl, rfl, rfl⟩
      primed_even := nofun
      snap_is_key_layout := fun _ => ⟨key, rfl⟩ }

/-- LDIV starts from OFF = 0: a fresh key has it, and the restore puts it there. -/
theorem Engine.Inv.restoreUnlessFresh_off {e : Engine} (h : e.Inv) : e.restoreUnlessFresh.off = 0 := by
  obtain ⟨hfresh, heq⟩ | ⟨_, heq⟩ := e.restoreUnlessFresh_cases <;> rw [heq]
  · obtain ⟨_, hoff, _⟩ := h.keyed_is_scheduled (h.fresh_iff_keyed.mp hfresh)
    exact hoff
  · rfl

theorem Engine.Inv.loadIv {e : Engine} (h : e.Inv) (hphase : e.phase ≠ .empty) (p : Config.Params) (iv : IvMaterial) :
    (e.loadIv p iv).Inv := by
  have heven : (e.loadIv p iv).off.toNat % 2 = 0 := by rw [Engine.loadIv_off, h.restoreUnlessFresh_off]; rfl
  obtain ⟨reg, off, ctr, hframe⟩ := e.loadIv_frame p iv
  rw [hframe] at heven ⊢
  exact Engine.inv_of_primed rfl (h.keySize_eq hphase) rfl heven (h.snap_is_key_layout hphase)

/-- ROUND and XORB run in phase PRIMED only, and are refused in the others. -/
theorem Engine.Inv.answer_streamCommand {e : Engine} (h : e.Inv) (c : Option Byte) :
    (answer (streamCommand c) e).engine.Inv := by
  by_cases hphase : e.phase = .primed
  · exact h.of_sameSession hphase (answer_streamCommand_sameSession c e)
      (answer_streamCommand_off_even c (h.primed_even hphase))
  · have hrefused : (answer (streamCommand c) e).status ≠ .ok := by
      rw [(answer_fits _ e).status_eq, expectedStatus_streamCommand c hphase]
      nofun
    obtain ⟨_, heq⟩ := (answer_fits _ e).of_error hrefused
    rw [heq]
    exact h

theorem Engine.Inv.answer {e : Engine} (h : e.Inv) (i : Instr) : (answer i e).engine.Inv := by
  cases i with
  | clr => exact e.clear_inv
  | ldkey payload =>
    by_cases hlen : payload.length = 16
    · obtain ⟨key, rfl⟩ := exists_toList_of_length_eq hlen
      rw [answer_ldkey_toList]
      exact e.loadKey_inv _ key
    · rw [answer_ldkey_of_length_ne hlen]
      exact h
  | ldiv payload =>
    by_cases hphase : e.phase = .empty
    · rw [answer_ldiv_of_empty payload hphase]
      exact h
    · by_cases hlen : payload.length = 16
      · obtain ⟨iv, rfl⟩ := exists_toList_of_length_eq hlen
        rw [answer_ldiv_toList iv hphase]
        exact h.loadIv hphase _ iv
      · rw [answer_ldiv_of_length_ne hlen hphase]
        exact h
  | round => exact h.answer_streamCommand none
  | xorb data => exact h.answer_streamCommand (some data)

theorem Engine.Inv.packetAnswer {e : Engine} (h : e.Inv) (p : Packet) : (packetAnswer p e).engine.Inv := by
  cases p with
  | command i => exact h.answer i
  | illegal why => exact h

/-! The obligations on the step as a whole. -/

/-- Settles O18: a step waits, or leaves the engine of one packet's answer. -/
theorem stepKeepsInvariant : Obligations.StepKeepsInvariant := by
  intro s t hinv hstep
  obtain rfl | ⟨p, rest, rfl⟩ := eq_or_exists_packetAnswer_of_step hstep
  · exact hinv
  · exact hinv.packetAnswer p

/-- Settles O10: the engine waits for a packet that is not complete and answers one that is. -/
theorem stepNeverStops : Obligations.StepNeverStops := by
  intro s
  cases hdecode : decode s.rx with
  | incomplete m => exact ⟨s, step_of_decode_incomplete hdecode⟩
  | packet p rest => exact ⟨_, step_of_decode_packet hdecode⟩

/-- Settles O9: on a short header and on a short payload the decoder has no packet yet. -/
theorem stepWaitsForTheRestOfAPacket : Obligations.StepWaitsForTheRestOfAPacket := by
  rintro s (hshort | hlacks)
  · exact step_of_decode_incomplete (decode_of_length_lt hshort)
  · exact step_of_decode_incomplete (decode_of_lacksPayload hlacks)

/-- Settles O17: the engine after reset is in phase EMPTY with every field clear. -/
theorem resetMeetsInvariant : Obligations.ResetMeetsInvariant := Engine.reset_with_rom_inv Engine.reset.rom

end Sys2Proof.Machine
end

section
/-! Proofs on the logical view of an engine: where a rotation, the mixing stages and the rounds move it, what two engines
of one view answer, and the second LDIV of a session. First the view through the accessors, then through each command,
then the obligations. -/

namespace Sys2Proof.Machine

/-! Cells and logical words (40_nlfsr_addressing.md R90, R93). -/

/-- Every cell of R is a logical word. -/
theorem exists_physIndex_eq (off : BitVec offBits) (q : Fin 32) : ∃ i < 32, physIndex off i = q := by
  have hoff := offset_lt off
  have hq := q.isLt
  refine ⟨(q.val + (32 - off.toNat)) % 32, Nat.mod_lt _ (by decide), Fin.ext ?_⟩
  rw [physIndex_val]
  omega

/-- Rotations by two amounts that add up to a turn undo each other. -/
theorem Engine.wordAt_rotate_add (e : Engine) {k : BitVec offBits} {n : Nat} (h : n + k.toNat = 32) (i : Nat) :
    (e.rotate k).wordAt (i + n) = e.wordAt i := by
  rw [Engine.wordAt_rotate, Nat.add_assoc, h]
  exact e.wordAt_congr (Nat.add_mod_right i 32)

/-! The window of the mixing stages (42_iv_scheduler.md R115, R117). -/

theorem mixStages_succ (p : Config.Params) (n : Nat) (s : Engine × Carry) :
    mixStages p (n + 1) s = mixStage p (mixStages p n s) := by
  induction n generalizing s with
  | zero => rfl
  | succ n ih => rw [mixStages, ih, mixStages]

/-- A stage leaves the cells of its logical words 4 to 31. -/
theorem mixStage_reg_getElem (p : Config.Params) (s : Engine × Carry) {q : Fin 32}
    (hq : ∀ j < 4, q ≠ physIndex (mixStage p s).1.off j) : (mixStage p s).1.reg[q] = s.1.reg[q] := by
  obtain ⟨i, hi, hcell⟩ := exists_physIndex_eq (mixStage p s).1.off q
  have hout : ∀ j < 4, i ≠ j := fun j hj hij => hq j hj (hij ▸ hcell.symm)
  have hold : physIndex s.1.off (i + 28) = q := by rw [← hcell, mixStage_off, physIndex_add]; rfl
  calc (mixStage p s).1.reg[q]
      = (mixStage p s).1.wordAt i := (Engine.wordAt_of_physIndex_eq hcell (mixStage p s).1).symm
    _ = s.1.wordAt (i + 28) := by
        rw [wordAt_mixStage p s hi, if_neg (hout 3 (by decide)), if_neg (hout 2 (by decide)),
          if_neg (hout 1 (by decide)), if_neg (hout 0 (by decide))]
    _ = s.1.reg[q] := Engine.wordAt_of_physIndex_eq hold s.1

/-! The window of the rounds (44_round_and_stream.md R146, R148). -/

/-- A fresh block leaves R and OFF. -/
theorem Engine.wordAt_loadBlock (e : Engine) (block : Vector Byte blockBytes) (i : Nat) :
    (e.loadBlock block).wordAt i = e.wordAt i := rfl

/-- The register after a round, in the logical indices of before it. -/
theorem Engine.wordAt_regen (p : Config.Params) (e : Engine) (i : Nat) :
    (e.regen p).wordAt i =
      if i % 32 = 1 then (network p e.rom e.roundTaps).c
      else if i % 32 = 0 then (network p e.rom e.roundTaps).b
      else e.wordAt (i + 2) := by
  have hwindow : ((e.setCounter (e.ctr + 1)).rotate roundRot).wordAt i = e.wordAt (i + 2) :=
    (e.setCounter (e.ctr + 1)).wordAt_rotate roundRot i
  simp only [Engine.regen, Engine.wordAt_loadBlock, Engine.wordAt_setWordAt, hwindow]
  rfl

/-! Engines whose logical words and ROM agree, whatever the rest of them holds: all that the mixing of an IV reads. -/

/-- Two engines with the same logical words and the same ROM. -/
structure Engine.SameWords (x y : Engine) : Prop where
  words : ∀ i, x.wordAt i = y.wordAt i
  rom : x.rom = y.rom

theorem Engine.SameWords.setWordAt {x y : Engine} (h : x.SameWords y) (i : Nat) (v : Word) :
    (x.setWordAt i v).SameWords (y.setWordAt i v) where
  words j := by rw [Engine.wordAt_setWordAt, Engine.wordAt_setWordAt, h.words]
  rom := h.rom

theorem Engine.SameWords.rotate {x y : Engine} (h : x.SameWords y) (k : BitVec offBits) :
    (x.rotate k).SameWords (y.rotate k) where
  words i := by rw [Engine.wordAt_rotate, Engine.wordAt_rotate, h.words]
  rom := h.rom

theorem Engine.SameWords.applyIvLayout {x y : Engine} (h : x.SameWords y) (p : Config.Params) (iv : IvMaterial) :
    (x.applyIvLayout p iv).SameWords (y.applyIvLayout p iv) := by
  unfold Engine.applyIvLayout
  induction p.ivLayout generalizing x y with
  | nil => exact h
  | cons entry entries ih =>
    refine ih ?_
    rw [Engine.applyIvEntry_eq, Engine.applyIvEntry_eq, h.words]
    exact h.setWordAt _ _

theorem Engine.SameWords.foldl_mixWrite {x y : Engine} (h : x.SameWords y) (writes : List ((Nat × Nat) × Word)) :
    (writes.foldl Engine.mixWrite x).SameWords (writes.foldl Engine.mixWrite y) := by
  induction writes generalizing x y with
  | nil => exact h
  | cons w ws ih =>
    refine ih ?_
    rw [Engine.mixWrite, Engine.mixWrite, h.words]
    exact h.setWordAt _ _

theorem Engine.SameWords.mixOutput_eq {x y : Engine} (h : x.SameWords y) (p : Config.Params) (k : Carry) :
    mixOutput p x k = mixOutput p y k := by
  simp only [mixOutput, Engine.probe, h.words, h.rom]

theorem Engine.SameWords.mixStages {x y : Engine} (h : x.SameWords y) (p : Config.Params) (n : Nat) (k : Carry) :
    (mixStages p n (x, k)).1.SameWords (mixStages p n (y, k)).1 ∧ (mixStages p n (x, k)).2 = (mixStages p n (y, k)).2 := by
  induction n generalizing x y k with
  | zero => exact ⟨h, rfl⟩
  | succ n ih =>
    have hstage : (mixStage p (x, k)).2 = (mixStage p (y, k)).2 := by
      rw [mixStage_carry, mixStage_carry, h.mixOutput_eq]
    have hwords : (mixStage p (x, k)).1.SameWords (mixStage p (y, k)).1 := by
      simp only [mixStage, h.mixOutput_eq]
      exact (h.rotate mixRot).foldl_mixWrite _
    have hrest := ih hwords (mixStage p (x, k)).2
    rw [Sys2Proof.Machine.mixStages, Sys2Proof.Machine.mixStages]
    rwa [← Prod.eta (mixStage p (y, k)), ← hstage]

/-- The layout and the stages, from starts of the same words. -/
theorem Engine.SameWords.mixIv {x y : Engine} (h : x.restoreUnlessFresh.SameWords y.restoreUnlessFresh)
    (p : Config.Params) (iv : IvMaterial) :
    (x.mixIv p iv).1.SameWords (y.mixIv p iv).1 ∧ (x.mixIv p iv).2 = (y.mixIv p iv).2 :=
  (h.applyIvLayout p iv).mixStages p nStages Carry.initial

/-! Engines of one logical view (40_nlfsr_addressing.md R94). -/

theorem Engine.SameView.of_eq {x y : Engine} (h : x = y) : x.SameView y :=
  h ▸ ⟨fun _ => rfl, rfl, rfl, rfl, rfl, rfl, rfl, rfl, rfl⟩

theorem Engine.SameView.sameWords {x y : Engine} (h : x.SameView y) : x.SameWords y := ⟨h.words, h.rom⟩

/-- Engines of one view that also agree in OFF are equal: equal words then are equal cells. -/
theorem Engine.SameView.eq_of_off_eq {x y : Engine} (h : x.SameView y) (hoff : x.off = y.off) : x = y := by
  have hreg : x.reg = y.reg := Vector.ext fun q hq => by
    obtain ⟨i, _, hcell⟩ := exists_physIndex_eq x.off ⟨q, hq⟩
    have hword := h.words i
    simp only [Engine.wordAt, ← hoff, hcell] at hword
    exact hword
  obtain ⟨_, hctr, hkeySize, hfresh, hsnap, hksBuf, hksPos, hphase, hrom⟩ := h
  cases x
  cases y
  simp_all

/-- The restore writes R and OFF from SNAP, so it makes engines of one view equal. -/
theorem Engine.SameView.restore_eq {x y : Engine} (h : x.SameView y) : x.restore = y.restore :=
  Engine.SameView.eq_of_off_eq
    { h with words := fun i => congrArg (fun reg : Vector Word nWords => reg[physIndex 0 i]) h.snap } rfl

theorem Engine.SameView.restoreUnlessFresh {x y : Engine} (h : x.SameView y) :
    x.restoreUnlessFresh.SameView y.restoreUnlessFresh := by
  obtain ⟨hf, hx⟩ | ⟨hf, hx⟩ := x.restoreUnlessFresh_cases <;> rw [hx]
  · rwa [Engine.restoreUnlessFresh, if_pos (h.fresh ▸ hf)]
  · rw [Engine.restoreUnlessFresh, if_neg (by rw [← h.fresh, hf]; decide), h.restore_eq]
    exact .of_eq rfl

/-- The end of LDIV writes neither R nor OFF. -/
theorem Engine.wordAt_primeWith (m : Engine × Carry) (i : Nat) : (Engine.primeWith m).wordAt i = m.1.wordAt i := rfl

/-- LDIV leaves engines of one view where it starts from the same words in the same session. -/
theorem Engine.loadIv_sameView {x y : Engine} (hstart : x.restoreUnlessFresh.SameWords y.restoreUnlessFresh)
    (hkeySize : x.keySize = y.keySize) (hsnap : x.snap = y.snap) (hrom : x.rom = y.rom) (p : Config.Params)
    (iv : IvMaterial) : (x.loadIv p iv).SameView (y.loadIv p iv) := by
  obtain ⟨hwords, hcarry⟩ := hstart.mixIv p iv
  obtain ⟨hfresh, hphase, hksPos, hksBuf⟩ := x.loadIv_flags p iv
  obtain ⟨hfresh', hphase', hksPos', hksBuf'⟩ := y.loadIv_flags p iv
  exact
    { words := fun i => by
        rw [Engine.loadIv, Engine.loadIv, Engine.wordAt_primeWith, Engine.wordAt_primeWith, hwords.words]
      ctr := congrArg (fun k : Carry => packCounter k.e k.f) hcarry
      keySize := by rw [Engine.loadIv_eq, Engine.loadIv_eq p iv y, hkeySize]
      fresh := hfresh.trans hfresh'.symm
      snap := by rw [Engine.loadIv_eq, Engine.loadIv_eq p iv y, hsnap]
      ksBuf := hksBuf.trans hksBuf'.symm
      ksPos := hksPos.trans hksPos'.symm
      phase := hphase.trans hphase'.symm
      rom := by rw [Engine.loadIv_rom, Engine.loadIv_rom, hrom] }

theorem Engine.SameView.loadIv {x y : Engine} (h : x.SameView y) (p : Config.Params) (iv : IvMaterial) :
    (x.loadIv p iv).SameView (y.loadIv p iv) :=
  Engine.loadIv_sameView h.restoreUnlessFresh.sameWords h.keySize h.snap h.rom p iv

theorem Engine.SameView.roundTaps_eq {x y : Engine} (h : x.SameView y) : x.roundTaps = y.roundTaps := by
  simp only [Engine.roundTaps, h.words, h.ctr]

theorem Engine.SameView.regen {x y : Engine} (h : x.SameView y) (p : Config.Params) :
    (x.regen p).SameView (y.regen p) := by
  have hnetwork : network p x.rom x.roundTaps = network p y.rom y.roundTaps := by rw [h.rom, h.roundTaps_eq]
  obtain ⟨hctr, _, hksPos⟩ := x.regen_counters p
  obtain ⟨hctr', _, hksPos'⟩ := y.regen_counters p
  exact
    { h with
      words := fun i => by rw [Engine.wordAt_regen, Engine.wordAt_regen, hnetwork, h.words]
      ctr := by rw [hctr, hctr', h.ctr]
      ksBuf := congrArg (fun o : Six => blockOf o.a o.e) hnetwork
      ksPos := hksPos.trans hksPos'.symm }

theorem Engine.supply_of_ksPos_lt {p : Config.Params} (hmode : p.cursorMode = .sequential) {e : Engine}
    (hpos : e.ksPos.val < 8) : e.supply p = (e, ⟨e.ksPos.val, hpos⟩) := by
  simp only [Engine.supply, hmode]
  exact dif_pos hpos

theorem Engine.supply_of_round {p : Config.Params} {e : Engine} (h : p.cursorMode = .firstByte ∨ e.ksPos = 8) :
    e.supply p = (e.regen p, 0) := by
  obtain ⟨hpos, hmode, _⟩ | ⟨_, hsupply⟩ := e.supply_cases p
  · obtain hfirst | hexhausted := h
    · rw [hmode] at hfirst
      cases hfirst
    · rw [hexhausted] at hpos
      exact absurd hpos (by decide)
  · exact hsupply

theorem Engine.SameView.supply {x y : Engine} (h : x.SameView y) (p : Config.Params) :
    (x.supply p).1.SameView (y.supply p).1 ∧ (x.supply p).2 = (y.supply p).2 := by
  obtain ⟨hpos, hmode, hx⟩ | ⟨hround, hx⟩ := x.supply_cases p
  · rw [hx, Engine.supply_of_ksPos_lt hmode (h.ksPos ▸ hpos)]
    exact ⟨h, by simp only [h.ksPos]⟩
  · rw [hx, Engine.supply_of_round (h.ksPos ▸ hround)]
    exact ⟨h.regen p, rfl⟩

theorem Engine.SameView.advanceTo {x y : Engine} (h : x.SameView y) (k : Fin blockBytes) :
    (x.advanceTo k).SameView (y.advanceTo k) :=
  { h with ksPos := rfl }

/-- Of the engine before, CLR keeps the ROM only. -/
theorem Engine.SameView.clear_eq {x y : Engine} (h : x.SameView y) : x.clear = y.clear := by
  rw [Engine.clear_eq, Engine.clear_eq, h.rom]

/-- Of the engine before, LDKEY keeps the ROM only. -/
theorem Engine.loadKey_eq_of_rom_eq {x y : Engine} (h : x.rom = y.rom) (p : Config.Params) (key : KeyMaterial) :
    x.loadKey p key = y.loadKey p key := by
  rw [Engine.loadKey_eq, Engine.loadKey_eq p key y, h]

/-! What engines of one view answer (40_nlfsr_addressing.md R94). -/

/-- The same response, and engines of one view after it. -/
structure Answer.SameView (a b : Answer) : Prop where
  status : a.status = b.status
  bytes : a.bytes = b.bytes
  engine : a.engine.SameView b.engine

theorem Answer.sameView_mk (st : Status) {bs bs' : List Byte} (hbytes : bs = bs') {x y : Engine} (h : x.SameView y) :
    Answer.SameView ⟨st, bs, x⟩ ⟨st, bs', y⟩ := ⟨rfl, hbytes, h⟩

/-- All that a command looks at is in the view. -/
theorem Engine.SameView.answer {x y : Engine} (h : x.SameView y) (i : Instr) : (answer i x).SameView (answer i y) := by
  cases i with
  | clr => exact Answer.sameView_mk _ rfl (.of_eq h.clear_eq)
  | ldkey payload =>
    by_cases hlen : payload.length = 16
    · obtain ⟨key, rfl⟩ := exists_toList_of_length_eq hlen
      rw [answer_ldkey_toList, answer_ldkey_toList]
      exact Answer.sameView_mk _ rfl (.of_eq (Engine.loadKey_eq_of_rom_eq h.rom _ key))
    · rw [answer_ldkey_of_length_ne hlen, answer_ldkey_of_length_ne hlen]
      exact Answer.sameView_mk _ rfl h
  | ldiv payload =>
    by_cases hphase : x.phase = .empty
    · rw [answer_ldiv_of_empty payload hphase, answer_ldiv_of_empty payload (h.phase ▸ hphase)]
      exact Answer.sameView_mk _ rfl h
    · have hphase' : y.phase ≠ .empty := h.phase ▸ hphase
      by_cases hlen : payload.length = 16
      · obtain ⟨iv, rfl⟩ := exists_toList_of_length_eq hlen
        rw [answer_ldiv_toList iv hphase, answer_ldiv_toList iv hphase']
        exact Answer.sameView_mk _ rfl (h.loadIv _ iv)
      · rw [answer_ldiv_of_length_ne hlen hphase, answer_ldiv_of_length_ne hlen hphase']
        exact Answer.sameView_mk _ rfl h
  | round =>
    by_cases hphase : x.phase = .primed
    · have hround := h.regen Config.params
      simp only [Machine.answer, if_pos hphase, if_pos (h.phase ▸ hphase)]
      exact Answer.sameView_mk _ (congrArg Vector.toList hround.ksBuf) hround
    · simp only [Machine.answer, if_neg hphase, if_neg (h.phase ▸ hphase)]
      exact Answer.sameView_mk _ rfl h
  | xorb data =>
    by_cases hphase : x.phase = .primed
    · obtain ⟨hsupply, hbyte⟩ := h.supply Config.params
      simp only [Machine.answer, if_pos hphase, if_pos (h.phase ▸ hphase), hbyte, hsupply.ksBuf]
      exact Answer.sameView_mk _ rfl (hsupply.advanceTo _)
    · simp only [Machine.answer, if_neg hphase, if_neg (h.phase ▸ hphase)]
      exact Answer.sameView_mk _ rfl h

theorem Engine.SameView.packetAnswer {x y : Engine} (h : x.SameView y) (p : Packet) :
    (packetAnswer p x).SameView (packetAnswer p y) := by
  cases p with
  | command i => exact h.answer i
  | illegal why => exact Answer.sameView_mk _ rfl h

/-- Two machines, from `s` to `u` and from `t` to `v`, that take the same bytes and send the same responses. -/
structure SameMove (s t u v : State) (responses : List (List Byte)) : Prop where
  view : u.engine.SameView v.engine
  rx : u.rx = v.rx
  left : u.tx = s.tx ++ responses
  right : v.tx = t.tx ++ responses
  keeps_eq : s.engine = t.engine → u.engine = v.engine

theorem SameMove.trans {s t u v u' v' : State} {rs rs' : List (List Byte)} (h : SameMove s t u v rs)
    (h' : SameMove u v u' v' rs') : SameMove s t u' v' (rs ++ rs') where
  view := h'.view
  rx := h'.rx
  left := by rw [h'.left, h.left, List.append_assoc]
  right := by rw [h'.right, h.right, List.append_assoc]
  keeps_eq := fun heq => h'.keeps_eq (h.keeps_eq heq)

/-- Engines of one view with the same bytes to serve make the same step. -/
theorem exists_step_sameMove {s t : State} (h : s.engine.SameView t.engine) (hrx : s.rx = t.rx) :
    ∃ u v responses, step s = .next u ∧ step t = .next v ∧ SameMove s t u v responses := by
  cases hdecode : decode s.rx with
  | incomplete m =>
    exact ⟨s, t, [], step_of_decode_incomplete hdecode, step_of_decode_incomplete (hrx ▸ hdecode),
      ⟨h, hrx, (List.append_nil _).symm, (List.append_nil _).symm, id⟩⟩
  | packet p rest =>
    obtain ⟨hstatus, hbytes, hview⟩ := h.packetAnswer p
    refine ⟨_, _, _, step_of_decode_packet hdecode, step_of_decode_packet (hrx ▸ hdecode), hview, rfl, rfl, ?_,
      fun heq => ?_⟩
    · simp only [State.after, hstatus, hbytes]
    · simp only [State.after, heq]

theorem exists_run_sameMove (n : Nat) {s t : State} (h : s.engine.SameView t.engine) (hrx : s.rx = t.rx) :
    ∃ u v responses, core.run n s = .next u ∧ core.run n t = .next v ∧ SameMove s t u v responses := by
  induction n generalizing s t with
  | zero => exact ⟨s, t, [], rfl, rfl, h, hrx, (List.append_nil _).symm, (List.append_nil _).symm, id⟩
  | succ n ih =>
    obtain ⟨u, v, rs, hs, ht, hmove⟩ := exists_step_sameMove h hrx
    obtain ⟨u', v', rs', hu, hv, hmove'⟩ := ih hmove.view hmove.rx
    exact ⟨u', v', rs ++ rs', (core_run_next (M := core) n hs).trans hu, (core_run_next (M := core) n ht).trans hv,
      hmove.trans hmove'⟩

/-! Runs of commands. -/

theorem execAll_cons (i : Instr) (is : List Instr) (s : State) :
    execAll (i :: is) s = execAll is (s.after (answer i s.engine)) := by
  simp only [execAll, exec_eq_answer]

theorem execAll_append {is : List Instr} {s t : State} (h : execAll is s = .next t) (js : List Instr) :
    execAll (is ++ js) s = execAll js t := by
  induction is generalizing s with
  | nil => cases h; rfl
  | cons i is ih =>
    rw [execAll_cons] at h
    rw [List.cons_append, execAll_cons, ih h]

/-- Any number of ROUNDs and XORBs stay in the session. -/
theorem exists_execAll_streamCommands (commands : List (Option Byte)) (s : State) :
    ∃ t, execAll (commands.map streamCommand) s = .next t ∧ t.engine.SameSession s.engine := by
  induction commands generalizing s with
  | nil => exact ⟨s, rfl, .refl _⟩
  | cons c cs ih =>
    obtain ⟨t, hrun, hsame⟩ := ih (s.after (answer (streamCommand c) s.engine))
    exact ⟨t, (execAll_cons _ _ _).trans hrun, hsame.trans (answer_streamCommand_sameSession c s.engine)⟩

/-! The second LDIV of a session (42_iv_scheduler.md R111, R118). -/

/-- Two engines with one key loaded, one fresh and one past its first LDIV, start LDIV from the same register: SNAP is
the register that LDKEY left. -/
theorem Engine.loadIv_eq_of_restore {x y : Engine} (hx : x.fresh = false) (hy : y.fresh = true)
    (hreg : y.reg = x.snap) (hoff : y.off = 0) (hkeySize : x.keySize = y.keySize) (hsnap : x.snap = y.snap)
    (hrom : x.rom = y.rom) (p : Config.Params) (iv : IvMaterial) : x.loadIv p iv = y.loadIv p iv := by
  have hxstart : x.restoreUnlessFresh = x.restore := if_neg (by rw [hx]; decide)
  have hystart : y.restoreUnlessFresh = y := if_pos hy
  have hwords : x.restoreUnlessFresh.SameWords y.restoreUnlessFresh := by
    rw [hxstart, hystart]
    exact ⟨fun i => by simp only [Engine.wordAt, Engine.restore_reg, Engine.restore_off, hreg, hoff], hrom⟩
  refine (Engine.loadIv_sameView hwords hkeySize hsnap hrom p iv).eq_of_off_eq ?_
  rw [Engine.loadIv_off, Engine.loadIv_off, hxstart, hystart, hoff]
  rfl

/-- A session that goes on with a second IV is the session that begins with it. -/
theorem Engine.SameSession.loadIv_eq {e : Engine} {key : KeyMaterial} {v1 : IvMaterial} {p : Config.Params} {k : Engine}
    (h : e.SameSession ((k.loadKey p key).loadIv p v1)) (v2 : IvMaterial) :
    e.loadIv p v2 = (k.loadKey p key).loadIv p v2 := by
  have hsame : ((k.loadKey p key).loadIv p v1).keySize = 128 ∧ ((k.loadKey p key).loadIv p v1).snap = keyImage key := by
    rw [Engine.loadIv_eq, Engine.loadKey_eq_keyImage]
    exact ⟨rfl, rfl⟩
  obtain ⟨hkeySize, hsnap⟩ := hsame
  have hrom : e.rom = (k.loadKey p key).rom := h.rom.trans (Engine.loadIv_rom p v1 _)
  have hkeyed := Engine.loadKey_eq_keyImage p key k
  refine Engine.loadIv_eq_of_restore h.fresh rfl ?_ (Engine.loadKey_off p key k) ?_ ?_ hrom p v2
  · rw [h.snap, hsnap, hkeyed]
  · rw [h.keySize, hkeySize, hkeyed]
  · rw [h.snap, hsnap, hkeyed]

/-- LDKEY and LDIV with sixteen bytes each begin a session from every state. -/
theorem exists_execAll_session (key : KeyMaterial) (iv : IvMaterial) (s : State) :
    ∃ t, execAll [.ldkey key.toList, .ldiv iv.toList] s = .next t ∧
      t.engine = (s.engine.loadKey Config.params key).loadIv Config.params iv := by
  have hphase : (s.engine.loadKey Config.params key).phase ≠ .empty := nofun
  refine ⟨_, (execAll_cons _ _ _).trans (execAll_cons _ _ _), ?_⟩
  simp only [State.after, answer_ldkey_toList, answer_ldiv_toList iv hphase]

/-! The obligations on the logical view. -/

/-- Settles O13, by induction on the steps: one step serves both machines the same packet, and all that the packet
looks at is in the view. -/
theorem sameViewSameResponses : Obligations.SameViewSameResponses := by
  intro n s t hview hrx
  obtain ⟨u, v, responses, hs, ht, hmove⟩ := exists_run_sameMove n hview hrx
  exact ⟨u, v, responses, hs, ht, hmove.view, hmove.rx, hmove.left, hmove.right, hmove.keeps_eq⟩

/-- Settles O14: CLR and LDKEY keep nothing of R and OFF, and a restoring LDIV starts from SNAP and OFF = 0. -/
theorem loadingMakesSameViewsEqual : Obligations.LoadingMakesSameViewsEqual := by
  intro s t s' t' i hview hi hs ht
  rw [exec_eq_answer] at hs ht
  cases hs
  cases ht
  change (answer i s.engine).engine = (answer i t.engine).engine
  obtain rfl | ⟨key, rfl⟩ | ⟨hphase, hfresh, iv, rfl⟩ := hi
  · exact hview.clear_eq
  · rw [answer_ldkey_toList, answer_ldkey_toList]
    exact Engine.loadKey_eq_of_rom_eq hview.rom _ key
  · have hrestores (e : Engine) (h : e.fresh = false) : e.restoreUnlessFresh = e.restore := if_neg (by rw [h]; decide)
    rw [answer_ldiv_toList iv hphase, answer_ldiv_toList iv (hview.phase ▸ hphase)]
    refine (hview.loadIv Config.params iv).eq_of_off_eq ?_
    rw [Engine.loadIv_off, Engine.loadIv_off, hrestores _ hfresh, hrestores _ (hview.fresh ▸ hfresh)]
    rfl

/-- Settles O32: what the second LDIV reads of the session is what LDKEY left in it. -/
theorem rekeyEquivalence : Obligations.RekeyEquivalence := by
  intro key v1 v2 commands s
  obtain ⟨s1, hfirst, hs1⟩ := exists_execAll_session key v1 s
  obtain ⟨s2, hstream, hsame⟩ := exists_execAll_streamCommands commands s1
  obtain ⟨u, hnew, hu⟩ := exists_execAll_session key v2
    { State.reset with engine := { Engine.reset with rom := s.engine.rom } }
  rw [hs1] at hsame
  have hphase : s2.engine.phase ≠ .empty := by rw [hsame.phase]; nofun
  refine ⟨s2.after (answer (.ldiv v2.toList) s2.engine), u, ?_, hnew, ?_⟩
  · rw [execAll_append ((execAll_append hfirst _).trans hstream), execAll_cons]
    rfl
  · have hkeyed := Engine.loadKey_eq_of_rom_eq (x := s.engine) (y := { Engine.reset with rom := s.engine.rom }) rfl
      Config.params key
    simp only [State.after, answer_ldiv_toList v2 hphase, hsame.loadIv_eq v2, hu, hkeyed]

/-- Settles O28: OFF is counted by `mixStages_off`, and each stage writes its own logical words 0 to 3. -/
theorem mixingWalksTheWindow : Obligations.MixingWalksTheWindow := by
  intro p s
  have hturns : BitVec.ofNat 5 (28 * 16) = 0#5 := rfl
  refine ⟨fun n => mixStages_off p n s, ?_, fun hoff => ?_, fun n q hq => ?_⟩
  · rw [mixStages_off, hturns, BitVec.add_zero]
  · simp only [mixStages_off, hoff]
    decide
  · rw [mixStages_succ] at hq ⊢
    exact mixStage_reg_getElem p _ hq

/-- Settles O41: the round after reads its taps at the indices of this one moved by two. -/
theorem roundWindowMovesByTwo : Obligations.RoundWindowMovesByTwo := by
  intro p e
  have hwrap (x : Engine) (i : Nat) : x.wordAt (i + 32) = x.wordAt i := x.wordAt_congr (Nat.add_mod_right i 32)
  have hb : (e.regen p).wordAt 0 = (network p e.rom e.roundTaps).b := e.wordAt_regen p 0
  have hc : (e.regen p).wordAt 1 = (network p e.rom e.roundTaps).c := e.wordAt_regen p 1
  have h30 (x : Engine) : (x.regen p).wordAt 30 = x.wordAt 0 := (x.wordAt_regen p 30).trans (hwrap x 0)
  have h31 (x : Engine) : (x.regen p).wordAt 31 = x.wordAt 1 := (x.wordAt_regen p 31).trans (hwrap x 1)
  refine ⟨hb, hc, fun i hlow hhigh => ?_, h30 e, h31 e, hb, (h30 _).trans hb, (h31 _).trans hc⟩
  rw [Engine.wordAt_regen, if_neg (by omega), if_neg (by omega)]

/-- Settles O52: a rotation adds to the logical index, and 28 and 2 are 4 and 30 short of a turn. -/
theorem rotationMovesTheWindow : Obligations.RotationMovesTheWindow :=
  fun e k i => ⟨e.wordAt_rotate k i, rfl, e.wordAt_rotate_add rfl i, e.wordAt_rotate_add rfl i,
    e.wordAt_congr (Nat.add_mod_right i 32)⟩

end Sys2Proof.Machine
end

section
/-! Proofs on the update network: a call's pairs commute, and what an s-box makes of a word of four equal bytes. First
single pairs and lists of lookups, then the obligations. -/

namespace Sys2Proof.Machine

/-! The six words by name. -/

theorem Six.ext_get {x y : Six} (h : ∀ w, x.get w = y.get w) : x = y := by
  obtain ⟨a, b, c, d, e, f⟩ := x
  obtain ⟨a', b', c', d', e', f'⟩ := y
  rw [Six.mk.injEq]
  exact ⟨h .a, h .b, h .c, h .d, h .e, h .f⟩

theorem Six.get_put (x : Six) (w u : Wire) (v : Word) : (x.put w v).get u = if u = w then v else x.get u := by
  cases w <;> cases u <;> rfl

/-- Writes to different words commute. -/
theorem Six.put_comm (x : Six) {w w' : Wire} (h : w ≠ w') (v v' : Word) :
    (x.put w v).put w' v' = (x.put w' v').put w v := by
  refine Six.ext_get fun u => ?_
  simp only [Six.get_put]
  by_cases hw : u = w
  · rw [if_pos hw, if_pos hw, if_neg fun hw' => h (hw.symm.trans hw')]
  · rw [if_neg hw, if_neg hw]

/-! One pair of a call (43_update_network.md R132). -/

/-- What a pair writes, of the words its destination and its source hold. -/
def PairOp.apply (p : Config.Params) (rom : Rom) (op : PairOp) (dest src : Word) : Word :=
  match op with
  | .xor => dest ^^^ src
  | .add => dest + src
  | .sub v => dest ^^^ sbox p rom v src

theorem Pair.run_eq (p : Config.Params) (rom : Rom) (x : Six) (q : Pair) :
    Pair.run p rom x q = x.put q.dest (q.op.apply p rom (x.get q.dest) (x.get q.src)) := by
  obtain ⟨op, dest, src⟩ := q
  cases op <;> rfl

/-- Two pairs write different words, and neither reads what the other writes. -/
abbrev Pair.Apart (q r : Pair) : Prop := q.dest ≠ r.dest ∧ q.dest ≠ r.src ∧ r.dest ≠ q.src

theorem Pair.run_comm {q r : Pair} (h : q.Apart r) (p : Config.Params) (rom : Rom) (x : Six) :
    Pair.run p rom (Pair.run p rom x q) r = Pair.run p rom (Pair.run p rom x r) q := by
  obtain ⟨hdest, hqr, hrq⟩ := h
  simp only [Pair.run_eq, Six.get_put, if_neg hdest, if_neg hdest.symm, if_neg hqr.symm, if_neg hrq.symm]
  exact x.put_comm hdest _ _

theorem canonicalCalls_apart : ∀ call ∈ canonicalCalls, ∀ q ∈ call, ∀ r ∈ call, q = r ∨ q.Apart r := by decide

/-! The lookups of a box at one byte (43_update_network.md R133, R141). -/

/-- The XOR of a table's entry at `v` for every table of a list. -/
def xorLookups (rom : Rom) (v : Byte) (ts : List Config.Table) : Word :=
  ts.foldr (fun t acc => lookup rom t v ^^^ acc) 0#32

/-- A word XORed in once more. -/
theorem xor_ite_odd (x : Word) (n : Nat) : (x ^^^ if n % 2 = 1 then x else 0#32) = if (n + 1) % 2 = 1 then x else 0#32 := by
  obtain h | h := Nat.mod_two_eq_zero_or_one n
  · rw [if_neg (by omega), if_pos (by omega)]
    exact BitVec.xor_zero
  · rw [if_pos h, if_neg (by omega)]
    exact BitVec.xor_self

/-- Entries that are read an even number of times cancel. -/
theorem xorLookups_eq (rom : Rom) (v : Byte) (ts : List Config.Table) :
    xorLookups rom v ts =
      (if ts.count .first % 2 = 1 then lookup rom .first v else 0#32) ^^^
        (if ts.count .second % 2 = 1 then lookup rom .second v else 0#32) := by
  induction ts with
  | nil => simp [xorLookups]
  | cons t ts ih =>
    have hcons : xorLookups rom v (t :: ts) = lookup rom t v ^^^ xorLookups rom v ts := rfl
    cases t with
    | first =>
      have hother : (Config.Table.first :: ts).count .second = ts.count .second := List.count_cons_of_ne (by decide)
      rw [hcons, ih, ← BitVec.xor_assoc, xor_ite_odd, List.count_cons_self, hother]
    | second =>
      have hother : (Config.Table.second :: ts).count .first = ts.count .first := List.count_cons_of_ne (by decide)
      rw [hcons, ih, BitVec.xor_comm, BitVec.xor_assoc, BitVec.xor_comm _ (lookup rom .second v), xor_ite_odd,
        List.count_cons_self, hother]

theorem count_first_add_count_second (ts : List Config.Table) : ts.count .first + ts.count .second = ts.length := by
  induction ts with
  | nil => rfl
  | cons t ts ih => cases t <;> simp [← ih] <;> omega

/-- Of the four lookups of a box with one odd position, one table has one and the other three. -/
theorem odd_counts_of_isOdd {b : Config.BoxSel} {t : Config.Table} (h : b.isOdd t = true) :
    b.count .first % 2 = 1 ∧ b.count .second % 2 = 1 := by
  have hsum : b.count .first + b.count .second = 4 := count_first_add_count_second [b.byte0, b.byte1, b.byte2, b.byte3]
  have hone : b.count t = 1 := beq_iff_eq.mp h
  cases t <;> omega

/-- Every box of an admissible selection has one odd position (43_update_network.md R140). -/
theorem exists_isOdd (p : Config.Params) (box : Config.BoxName) : ∃ t, (p.sboxSel.of box).isOdd t = true := by
  obtain ⟨hg, hh⟩ := Bool.and_eq_true_iff.mp p.sboxSel_admissible
  obtain ⟨hg1, hg2, hg3⟩ := Config.isOdd_of_oddPositionsRotate hg
  obtain ⟨hh1, hh2, hh3⟩ := Config.isOdd_of_oddPositionsRotate hh
  cases box with
  | g1 => exact ⟨_, hg1⟩
  | g2 => exact ⟨_, hg2⟩
  | g3 => exact ⟨_, hg3⟩
  | h1 => exact ⟨_, hh1⟩
  | h2 => exact ⟨_, hh2⟩
  | h3 => exact ⟨_, hh3⟩

/-- On a word of equal bytes a box is the XOR of its four lookups at that byte. -/
theorem substitute_of_forall_byteOf_eq (rom : Rom) (b : Config.BoxSel) {x : Word} {v : Byte}
    (h : ∀ q, byteOf q x = v) :
    substitute rom b x = xorLookups rom v [b.byte0, b.byte1, b.byte2, b.byte3] := by
  simp only [substitute, h, xorLookups, List.foldr_cons, List.foldr_nil, BitVec.xor_assoc, BitVec.xor_zero]

/-! The obligations on the update network. -/

/-- Settles O34: the pairs of a canonical call are apart, so they commute. -/
theorem callOrderIsImmaterial : Obligations.CallOrderIsImmaterial := by
  intro p rom x call hcall pairs hperm
  refine hperm.foldl_eq' (fun q hq r hr y => ?_) x
  obtain rfl | hapart := canonicalCalls_apart call hcall q (hperm.subset hq) r (hperm.subset hr)
  · rfl
  · exact Pair.run_comm hapart p rom y

/-- Settles O36: each table is looked up an odd number of times, and the pairs of equal lookups cancel. -/
theorem equalBytesGiveBothTables : Obligations.EqualBytesGiveBothTables := by
  intro p rom box v x hbytes
  obtain ⟨t, hodd⟩ := exists_isOdd p box
  obtain ⟨hfirst, hsecond⟩ := odd_counts_of_isOdd hodd
  rw [sbox, substitute_of_forall_byteOf_eq rom _ hbytes, xorLookups_eq]
  exact congrArg₂ (· ^^^ ·) (if_pos hfirst) (if_pos hsecond)

end Sys2Proof.Machine
end

section
/-! Proofs on the keystream: the blocks that XORBs use in SEQUENTIAL mode, and the second run that gives the data back.
First runs of XORBs from an exhausted block and single commands fed back, then the obligations. -/

namespace Sys2Proof.Machine

/-! The keystream in SEQUENTIAL mode (44_round_and_stream.md R154). -/

/-- The engine that `n` XORBs leave of one whose block is exhausted: a round for every block begun, and the cursor after
the last byte used. -/
def Engine.afterBytes (p : Config.Params) (e : Engine) (n : Nat) : Engine :=
  { e.rounds p ((n + 7) / 8) with ksPos := ⟨(n + 7) % 8 + 1, Nat.succ_lt_succ (Nat.mod_lt _ (by decide))⟩ }

theorem Engine.afterBytes_zero (p : Config.Params) {e : Engine} (hpos : e.ksPos = 8) : e.afterBytes p 0 = e := by
  have h : { e with ksPos := 8 } = e := by rw [← hpos]
  exact h

theorem Engine.afterBytes_phase (p : Config.Params) (e : Engine) (n : Nat) : (e.afterBytes p n).phase = e.phase :=
  e.rounds_phase p _

/-- Byte `n` of the keystream is used from the block of round `n / 8`, whatever KSPOS was before. -/
theorem State.afterByte_rounds (s : State) (p : Config.Params) (e : Engine) (pos : Fin 9) {n m : Nat} {k : Fin 8}
    (hm : m = n / 8 + 1) (hk : k.val = n % 8) (data : Byte) :
    s.afterByte { e.rounds p m with ksPos := pos } k data =
      { engine := e.afterBytes p (n + 1), rx := s.rx, tx := s.tx ++ [[0x00, data ^^^ e.keystream p n]] } := by
  have hrounds : (n + 1 + 7) / 8 = m := by omega
  have hpos : (n + 1 + 7) % 8 = k.val := by omega
  have hengine : e.afterBytes p (n + 1) = { e.rounds p m with ksPos := k.succ } := by
    simp only [Engine.afterBytes, hrounds, hpos]
    rfl
  have hbyte : e.keystream p n = (e.rounds p m).ksBuf[k] := by
    simp only [Engine.keystream, Engine.block, ← hm, ← hk]
    rfl
  rw [hengine, hbyte]
  rfl

/-- XORB number `n` uses byte `n` of the keystream. -/
theorem execXorbWith_afterBytes {p : Config.Params} (hmode : p.cursorMode = .sequential) (data : Byte) {s : State}
    {e : Engine} {n : Nat} (hengine : s.engine = e.afterBytes p n) (hphase : e.phase = .primed) :
    execXorbWith p data s =
      .next { engine := e.afterBytes p (n + 1), rx := s.rx, tx := s.tx ++ [[0x00, data ^^^ e.keystream p n]] } := by
  have hprimed : s.engine.phase = .primed := by rw [hengine, Engine.afterBytes_phase, hphase]
  have hpos : s.engine.ksPos.val = (n + 7) % 8 + 1 := by rw [hengine]; rfl
  by_cases hlast : n % 8 = 0
  · have hround : s.engine.regen p = e.rounds p ((n + 7) / 8 + 1) := by
      rw [hengine, Engine.afterBytes, Engine.regen_with_ksPos, Engine.rounds_succ]
    rw [execXorbWith_of_round data hprimed (.inr (by omega)), hround]
    exact congrArg _ (s.afterByte_rounds p e _ (by omega) hlast.symm data)
  · rw [execXorbWith_of_ksPos_lt hmode data hprimed (by omega)]
    simp only [hengine]
    exact congrArg _ (s.afterByte_rounds p e _ (by omega) (by simp only [Engine.afterBytes]; omega) data)

theorem xorbAllWith_of_exhausted {p : Config.Params} (hmode : p.cursorMode = .sequential) (data : List Byte) {s : State}
    (hphase : s.engine.phase = .primed) (hpos : s.engine.ksPos = 8) :
    xorbAllWith p data s =
      .next { engine := s.engine.afterBytes p data.length
              rx := s.rx
              tx := s.tx ++ data.mapIdx fun i d => [(0x00 : Byte), d ^^^ s.engine.keystream p i] } := by
  induction data using List.reverseRecOn with
  | nil => simp [xorbAllWith, Engine.afterBytes_zero p hpos]
  | append_singleton ds d ih =>
    rw [xorbAllWith_append ih, xorbAllWith_cons (execXorbWith_afterBytes hmode d rfl hphase)]
    simp [xorbAllWith, List.mapIdx_concat]

/-! One command and its response fed back (44_round_and_stream.md R155). -/

/-- The response packet of an answer. -/
def Answer.response (a : Answer) : List Byte := a.status.code :: a.bytes

theorem State.after_tx (s : State) (a : Answer) : (s.after a).tx = s.tx ++ [a.response] := rfl

/-- The keystream byte and the engine after do not depend on the data of an XORB. -/
theorem exists_answer_xorb {e : Engine} (hphase : e.phase = .primed) :
    ∃ (k : Byte) (e' : Engine), ∀ data, answer (.xorb data) e = ⟨.ok, [data ^^^ k], e'⟩ :=
  ⟨_, _, fun _ => if_pos hphase⟩

/-- `c'` is the command of a second run for `c` of the first, where both find engine `e`. -/
structure FedBack (e : Engine) (c c' : Option Byte) : Prop where
  engine : (answer (streamCommand c') e).engine = (answer (streamCommand c) e).engine
  feedBack (cs : List (Option Byte)) (rs : List (List Byte)) :
    feedBack (c :: cs) ((answer (streamCommand c) e).response :: rs) = c' :: feedBack cs rs
  recovered (cs : List (Option Byte)) (rs : List (List Byte)) :
    recovered (c :: cs) ((answer (streamCommand c) e).response :: rs) =
      (answer (streamCommand c') e).response :: recovered cs rs

theorem exists_fedBack (c : Option Byte) {e : Engine} (hphase : e.phase = .primed) : ∃ c', FedBack e c c' := by
  cases c with
  | none => exact ⟨none, rfl, fun _ _ => rfl, fun _ _ => rfl⟩
  | some data =>
    obtain ⟨k, e', hanswer⟩ := exists_answer_xorb hphase
    have hcancel : data ^^^ k ^^^ k = data := by rw [BitVec.xor_assoc, BitVec.xor_self, BitVec.xor_zero]
    refine ⟨some (data ^^^ k), ?_, fun cs rs => ?_, fun cs rs => ?_⟩
    · simp only [streamCommand, hanswer]
    · simp only [streamCommand, hanswer]
      rfl
    · simp only [streamCommand, hanswer, hcancel]
      rfl

/-! The obligations on the keystream. -/

/-- Settles O44: XORB number i uses byte i, and the rounds run are the blocks begun. -/
theorem keystreamIsTheBlocksInOrder : Obligations.KeystreamIsTheBlocksInOrder :=
  fun p data s hmode hphase hpos =>
    ⟨_, xorbAllWith_of_exhausted hmode data hphase hpos, rfl, s.engine.rounds_ctr p _⟩

/-- Settles O47, by induction on the commands: each is answered from the same engine in both runs, and the keystream
byte cancels. -/
theorem streamSymmetry : Obligations.StreamSymmetry := by
  intro commands s t hphase heq
  induction commands generalizing s t with
  | nil => exact ⟨s, t, [], rfl, (List.append_nil _).symm, rfl, rfl, (List.append_nil _).symm, heq⟩
  | cons c cs ih =>
    obtain ⟨c', hengine, hfeed, hrecovered⟩ := exists_fedBack c hphase
    have hphase' : (answer (streamCommand c) s.engine).engine.phase = .primed :=
      (answer_streamCommand_sameSession c s.engine).phase.trans hphase
    obtain ⟨s', t', rs, hs, hstx, hlength, ht, httx, hfinal⟩ :=
      ih (s.after (answer (streamCommand c) s.engine)) (t.after (answer (streamCommand c') s.engine)) hphase' hengine
    refine ⟨s', t', (answer (streamCommand c) s.engine).response :: rs, ?_, ?_, ?_, ?_, ?_, hfinal⟩
    · rw [List.map_cons, execAll_cons, hs]
    · rw [hstx, State.after_tx, List.append_assoc, List.singleton_append]
    · rw [hfeed, List.length_cons, List.length_cons, hlength]
    · rw [hfeed, List.map_cons, execAll_cons, heq, ht]
    · rw [hrecovered, httx, State.after_tx, List.append_assoc, List.singleton_append]

end Sys2Proof.Machine
end

section
/-! Proofs on the assembler text: a printed command is read back. First characters and bytes, then the words of a
line, then the obligations. -/

namespace Sys2Proof.Machine

/-! Digits and bytes. -/

theorem digitValue_digitChar : ∀ n < 16, digitValue (digitChar n) = some n := by decide

/-- A character of a word: it neither ends the word nor starts a comment. -/
abbrev IsWordChar (c : Char) : Prop := c ≠ ';' ∧ c ≠ ' '

theorem isWordChar_digitChar : ∀ n < 16, IsWordChar (digitChar n) := by decide

theorem byte_digits_lt (b : Byte) : b.toNat / 16 < 16 ∧ b.toNat % 16 < 16 := by
  have := b.isLt
  omega

theorem isWordChar_of_mem_byteChars {b : Byte} {c : Char} (h : c ∈ byteChars b) : IsWordChar c := by
  obtain ⟨hhigh, hlow⟩ := byte_digits_lt b
  obtain rfl | rfl : c = digitChar (b.toNat / 16) ∨ c = digitChar (b.toNat % 16) := by simpa [byteChars] using h
  · exact isWordChar_digitChar _ hhigh
  · exact isWordChar_digitChar _ hlow

theorem byteValue_byteChars (b : Byte) : byteValue (byteChars b) = some b := by
  obtain ⟨hhigh, hlow⟩ := byte_digits_lt b
  simp [byteChars, byteValue, digitValue_digitChar _ hhigh, digitValue_digitChar _ hlow, Nat.div_add_mod]

theorem byteValues_map_byteChars (bs : List Byte) : byteValues (bs.map byteChars) = some bs := by
  induction bs with
  | nil => rfl
  | cons b bs ih => simp [byteValues, byteValue_byteChars, ih]

/-! The words of a line. -/

/-- The characters of a word are collected, the last first. -/
theorem lineWords_append {w : List Char} (hw : ∀ c ∈ w, IsWordChar c) (acc rest : List Char) :
    lineWords acc (w ++ rest) = lineWords (w.reverse ++ acc) rest := by
  induction w generalizing acc with
  | nil => rfl
  | cons c cs ih =>
    obtain ⟨⟨hcomment, hspace⟩, hcs⟩ := List.forall_mem_cons.mp hw
    rw [List.cons_append, lineWords, if_neg hcomment, if_neg hspace, ih hcs, List.reverse_cons, List.append_assoc,
      List.singleton_append]

/-- A space ends a word. -/
theorem lineWords_word_space {w : List Char} (hw : ∀ c ∈ w, IsWordChar c) (hne : w ≠ []) (rest : List Char) :
    lineWords [] (w ++ ' ' :: rest) = w :: lineWords [] rest := by
  rw [lineWords_append hw, List.append_nil, lineWords, if_neg (by decide), if_pos rfl,
    if_neg (List.reverse_eq_nil_iff.not.mpr hne), List.reverse_reverse]

/-- The end of the line ends a word. -/
theorem lineWords_word {w : List Char} (hw : ∀ c ∈ w, IsWordChar c) (hne : w ≠ []) : lineWords [] w = [w] := by
  have h := lineWords_append hw [] []
  rwa [List.append_nil, List.append_nil, lineWords, if_neg (List.reverse_eq_nil_iff.not.mpr hne),
    List.reverse_reverse] at h

/-- A mnemonic and bytes, each after one space, are the words they look like. -/
theorem lineWords_bytes {name : List Char} (hname : ∀ c ∈ name, IsWordChar c) (hne : name ≠ []) (bs : List Byte) :
    lineWords [] (name ++ bs.flatMap fun b => ' ' :: byteChars b) = name :: bs.map byteChars := by
  induction bs generalizing name with
  | nil => rw [List.flatMap_nil, List.append_nil, lineWords_word hname hne, List.map_nil]
  | cons b bs ih =>
    rw [List.flatMap_cons, List.cons_append, lineWords_word_space hname hne,
      ih (fun _ => isWordChar_of_mem_byteChars) nofun, List.map_cons]

theorem materialLine_map_byteChars (command : List Byte → Instr) {payload : List Byte}
    (h : payloadFits payload = true) :
    materialLine command (payload.map byteChars) = some (.command (command payload)) := by
  simp [materialLine, byteValues_map_byteChars, h]

/-! The obligations on the assembler text. -/

/-- Settles O56: the words of the printed line are the mnemonic and the bytes, and both are read back. -/
theorem printedCommandsAssembleBack : Obligations.PrintedCommandsAssembleBack := by
  intro i hi
  cases i with
  | clr => rfl
  | ldkey payload =>
    have hwords := lineWords_bytes (name := nameLdkey) (by simp [IsWordChar, nameLdkey]) nofun payload
    rw [assemble, printInstr, hwords]
    exact materialLine_map_byteChars .ldkey hi
  | ldiv payload =>
    have hwords := lineWords_bytes (name := nameLdiv) (by simp [IsWordChar, nameLdiv]) nofun payload
    rw [assemble, printInstr, hwords]
    exact materialLine_map_byteChars .ldiv hi
  | round => rfl
  | xorb data =>
    have hwords := lineWords_bytes (name := nameXorb) (by simp [IsWordChar, nameXorb]) nofun [data]
    have hbyte : (byteValue (byteChars data)).map (fun b => Line.command (.xorb b)) = some (.command (.xorb data)) := by
      rw [byteValue_byteChars, Option.map_some]
    rw [List.flatMap_singleton] at hwords
    rw [assemble, printInstr, hwords]
    exact hbyte

theorem assemble_of_printInstr_eq {i : Instr} {line : List Char} (hi : i.wellFormed = true)
    (hline : printInstr i = line) : assemble line = some (.command i) :=
  hline ▸ printedCommandsAssembleBack i hi

/-- Settles O57: the five lines of R83 are printed commands, so they assemble back; their packets and the other lines
are evaluated. -/
theorem assemblerExamples : Obligations.AssemblerExamples :=
  ⟨assemble_of_printInstr_eq rfl rfl, rfl, assemble_of_printInstr_eq rfl rfl, rfl, assemble_of_printInstr_eq rfl rfl,
    rfl, assemble_of_printInstr_eq rfl rfl, rfl, assemble_of_printInstr_eq rfl rfl, rfl, rfl,
    assemble_of_printInstr_eq rfl rfl, rfl, rfl, rfl⟩

end Sys2Proof.Machine
end
